-- ==== Sys2Proof/Word.lean ====
section
/-! DEFINITION. The word types of the core and the one modulus. -/

namespace Sys2Proof

/-- A byte of MEM or of a byte string (00_scope.md R10). -/
abbrev Byte := BitVec 8

/-- A 32-bit register, command word or bus data word (10_state.md R22). -/
abbrev Word := BitVec 32

/-- A 64-bit lane of the Keccak state (41_keccak_sponge.md R120). -/
abbrev Lane := BitVec 64

/-- A 12-bit cell of a polynomial register (10_state.md R34). -/
abbrev Coef := BitVec 12

/-- The modulus `q` (00_scope.md R7). -/
abbrev q : Nat := 3329

end Sys2Proof
end

