-- ==== Sys2Proof/Config.lean ====
section
/-! DEFINITION. What an implementation fixes (the parameters of 00_scope.md R8) and the free values the spec leaves open. -/

namespace Sys2Proof

/-- The hash of the implicit-rejection branch, parameter REJECT_HASH (00_scope.md R8, 90_conflicts.md C8). -/
inductive RejectHash where
  | sha3_256
  | shake256_32
deriving DecidableEq, Repr

/-- The interface parameters of 00_scope.md R8. They are plain data of `State`, so a claim about every
state is a claim about every choice of them. DESIGN CHOICE, log 1. -/
structure Params where
  /-- MEM_SIZE, bytes of MEM. -/
  memSize : Nat
  /-- NPOLY, the number of polynomial registers. -/
  npoly : Nat
  /-- BASE, the bus address of the register window (OPEN). -/
  base : Nat
  /-- REJECT_HASH. -/
  rejectHash : RejectHash
deriving DecidableEq, Repr

/-- The defaults of 00_scope.md R8. BASE has none there: 0 is a DESIGN CHOICE, log 1. -/
def Params.default : Params :=
  { memSize := 8192, npoly := 16, base := 0, rejectHash := .sha3_256 }

/-- The bounds of 00_scope.md R8: MEM_SIZE at least 3648, NPOLY at least 1. -/
abbrev Params.legal (p : Params) : Prop := 3648 ≤ p.memSize ∧ 1 ≤ p.npoly

/-- `any([0, 256))` for draw `n` at MEM address `a` (00_scope.md R11). Free value, log 4. -/
opaque Config.freeByte : Nat → Nat → Byte

/-- `any([0, 4096))` for draw `n` at cell `c` of polynomial register `r` (00_scope.md R11). Free value, log 4. -/
opaque Config.freeCell : Nat → Nat → Nat → Coef

/-- `any([0, 4096))` for draw `n` at RESULT (42_modarith.md R171). Free value, log 4. -/
opaque Config.freeResult : Nat → BitVec 12

/-- Whether ENC12 serialises a cell of q or more unchanged (45_codec.md R260) or leaves `any` bytes
(93_implementation_defined.md U1, decision D22). The spec says both: an open choice of the implementation, log 12. -/
opaque Config.enc12Keeps : Bool

end Sys2Proof
end

