-- ==== Sys2Proof/Syntax.lean ====
section
/-! DEFINITION. The commands of the opcode map (30_encoding.md R94), one constructor per row, with the operand values
each one takes from the ARG snapshot, in ARG order. -/

namespace Sys2Proof

/-- The four operand registers (10_state.md R28), or their snapshot (R32). -/
structure Args where
  a0 : Word
  a1 : Word
  a2 : Word
  a3 : Word
deriving DecidableEq, Repr

/-- All four operand registers zero, their reset value (70_reset_and_hazards.md R380). -/
def Args.zero : Args := ⟨0, 0, 0, 0⟩

/-- An issued command before decoding: the written CMD value and the ARG snapshot (10_state.md R32). -/
structure Command where
  word : Word
  args : Args
deriving DecidableEq, Repr

/-- The 25 commands. Each field is the whole 32-bit value of the ARG register that holds the operand
(30_encoding.md R91, R92, R94). -/
inductive Instr where
  /-- 47_system.md R330. -/
  | nop
  /-- 41_keccak_sponge.md R134. -/
  | keccakf (src dst : Word)
  /-- 41_keccak_sponge.md R135. -/
  | sha3_256 (src len dst : Word)
  /-- 41_keccak_sponge.md R136. -/
  | sha3_512 (src len dst : Word)
  /-- 41_keccak_sponge.md R137. -/
  | prf (seed nonce dst : Word)
  /-- 41_keccak_sponge.md R138. -/
  | xof (rho idx dst len : Word)
  /-- 42_modarith.md R171. -/
  | mulmod (a b : Word)
  /-- 42_modarith.md R173. -/
  | padd (dst a b : Word)
  /-- 42_modarith.md R174. -/
  | psub (dst a b : Word)
  /-- 43_ntt.md R195. -/
  | ntt (dst src : Word)
  /-- 43_ntt.md R196. -/
  | intt (dst src : Word)
  /-- 43_ntt.md R197. -/
  | basemul (dst a b : Word)
  /-- 44_samplers.md R221. -/
  | cbd2 (dst src : Word)
  /-- 44_samplers.md R232. -/
  | samplentt (dst rho idx : Word)
  /-- 45_codec.md R260. -/
  | enc12 (src dst : Word)
  /-- 45_codec.md R261. -/
  | dec12 (dst src : Word)
  /-- 45_codec.md R262. -/
  | comp10 (src dst : Word)
  /-- 45_codec.md R263. -/
  | decomp10 (dst src : Word)
  /-- 45_codec.md R264. -/
  | comp4 (src dst : Word)
  /-- 45_codec.md R265. -/
  | decomp4 (dst src : Word)
  /-- 45_codec.md R266. -/
  | tomsg (src dst : Word)
  /-- 45_codec.md R267. -/
  | frommsg (dst src : Word)
  /-- 46_kem.md R300. -/
  | keygen (d z pk sk : Word)
  /-- 46_kem.md R301. -/
  | encaps (pk m ct key : Word)
  /-- 46_kem.md R302. -/
  | decaps (sk ct key : Word)
deriving DecidableEq, Repr

end Sys2Proof
end

