-- ==== Sys2Proof/Decode.lean ====
section
/-! DEFINITION. The command decoder (30_encoding.md R90, R92, R94 to R96), total on all words and on all byte strings,
and after it the encoder, with the little-endian byte strings both use (20_memory.md R63). -/

namespace Sys2Proof

/-- The number a little-endian byte string stands for (20_memory.md R60). -/
def leNat : List Byte → Nat
  | [] => 0
  | b :: bs => b.toNat + 256 * leNat bs

/-- The `n` little-endian bytes of a number (20_memory.md R60). -/
def leBytes : Nat → Nat → List Byte
  | 0, _ => []
  | n + 1, v => BitVec.ofNat 8 v :: leBytes n (v / 256)

/-- Why a command is not decoded. -/
inductive DecodeError where
  /-- No row of the opcode map has this command word: a reserved OPCODE, or bits 31:8 not zero (30_encoding.md R96).
  The engine completes such a command with ERRCODE 1; safe, it is the spec's own behaviour. -/
  | illegalCmd
  /-- The byte string ends inside the command (model's byte image only, log 15). Raised by no step; safe. -/
  | truncated
deriving DecidableEq, Repr

/-- Decode an issued command: the whole command word is compared (30_encoding.md R95), and the used ARG values become
the operands (R92); unused ARG values are ignored (R91). -/
def decodeCommand (c : Command) : Except DecodeError Instr :=
  match c.word.toNat with
  | 0x00 => .ok .nop
  | 0x01 => .ok (.keccakf c.args.a0 c.args.a1)
  | 0x02 => .ok (.sha3_256 c.args.a0 c.args.a1 c.args.a2)
  | 0x03 => .ok (.sha3_512 c.args.a0 c.args.a1 c.args.a2)
  | 0x04 => .ok (.prf c.args.a0 c.args.a1 c.args.a2)
  | 0x05 => .ok (.xof c.args.a0 c.args.a1 c.args.a2 c.args.a3)
  | 0x10 => .ok (.mulmod c.args.a0 c.args.a1)
  | 0x11 => .ok (.padd c.args.a0 c.args.a1 c.args.a2)
  | 0x12 => .ok (.psub c.args.a0 c.args.a1 c.args.a2)
  | 0x20 => .ok (.ntt c.args.a0 c.args.a1)
  | 0x21 => .ok (.intt c.args.a0 c.args.a1)
  | 0x22 => .ok (.basemul c.args.a0 c.args.a1 c.args.a2)
  | 0x30 => .ok (.cbd2 c.args.a0 c.args.a1)
  | 0x31 => .ok (.samplentt c.args.a0 c.args.a1 c.args.a2)
  | 0x40 => .ok (.enc12 c.args.a0 c.args.a1)
  | 0x41 => .ok (.dec12 c.args.a0 c.args.a1)
  | 0x42 => .ok (.comp10 c.args.a0 c.args.a1)
  | 0x43 => .ok (.decomp10 c.args.a0 c.args.a1)
  | 0x44 => .ok (.comp4 c.args.a0 c.args.a1)
  | 0x45 => .ok (.decomp4 c.args.a0 c.args.a1)
  | 0x46 => .ok (.tomsg c.args.a0 c.args.a1)
  | 0x47 => .ok (.frommsg c.args.a0 c.args.a1)
  | 0x50 => .ok (.keygen c.args.a0 c.args.a1 c.args.a2 c.args.a3)
  | 0x51 => .ok (.encaps c.args.a0 c.args.a1 c.args.a2 c.args.a3)
  | 0x52 => .ok (.decaps c.args.a0 c.args.a1 c.args.a2)
  | _ => .error .illegalCmd

/-- The word that starts at the first four bytes. -/
def leWord (bs : List Byte) : Word := BitVec.ofNat 32 (leNat (bs.take 4))

/-- Cut one command off a byte string: the command word and ARG0 to ARG3, each little-endian (log 15). -/
def Command.ofBytes (bs : List Byte) : Except DecodeError (Command × List Byte) :=
  if bs.length < 20 then .error .truncated
  else
    .ok (⟨leWord bs, ⟨leWord (bs.drop 4), leWord (bs.drop 8), leWord (bs.drop 12), leWord (bs.drop 16)⟩⟩, bs.drop 20)

/-- Decode one command from a byte string, with the rest of the string. -/
def decodeBytes (bs : List Byte) : Except DecodeError (Instr × List Byte) :=
  match Command.ofBytes bs with
  | .error e => .error e
  | .ok (c, rest) =>
    match decodeCommand c with
    | .error e => .error e
    | .ok i => .ok (i, rest)

/-- The byte image of an instruction whose bits are `w`, of which `nbits` are given and the rest are 0. -/
def tableWordBytes (nbits w : Nat) : List Byte := leBytes 20 (w % 2 ^ nbits)

/-- The instruction the decoder reads from a word numbered as the opcode table numbers it. -/
def decodeTableWord (nbits w : Nat) : Option Instr :=
  match decodeBytes (tableWordBytes nbits w) with
  | .ok (i, _) => some i
  | .error _ => none

/-- The command word and ARG values that issue an instruction: OPCODE of the opcode map (30_encoding.md R94), omitted
operands zero (R99). -/
def encode : Instr → Command
  | .nop => ⟨0x00, ⟨0, 0, 0, 0⟩⟩
  | .keccakf src dst => ⟨0x01, ⟨src, dst, 0, 0⟩⟩
  | .sha3_256 src len dst => ⟨0x02, ⟨src, len, dst, 0⟩⟩
  | .sha3_512 src len dst => ⟨0x03, ⟨src, len, dst, 0⟩⟩
  | .prf seed nonce dst => ⟨0x04, ⟨seed, nonce, dst, 0⟩⟩
  | .xof rho idx dst len => ⟨0x05, ⟨rho, idx, dst, len⟩⟩
  | .mulmod a b => ⟨0x10, ⟨a, b, 0, 0⟩⟩
  | .padd dst a b => ⟨0x11, ⟨dst, a, b, 0⟩⟩
  | .psub dst a b => ⟨0x12, ⟨dst, a, b, 0⟩⟩
  | .ntt dst src => ⟨0x20, ⟨dst, src, 0, 0⟩⟩
  | .intt dst src => ⟨0x21, ⟨dst, src, 0, 0⟩⟩
  | .basemul dst a b => ⟨0x22, ⟨dst, a, b, 0⟩⟩
  | .cbd2 dst src => ⟨0x30, ⟨dst, src, 0, 0⟩⟩
  | .samplentt dst rho idx => ⟨0x31, ⟨dst, rho, idx, 0⟩⟩
  | .enc12 src dst => ⟨0x40, ⟨src, dst, 0, 0⟩⟩
  | .dec12 dst src => ⟨0x41, ⟨dst, src, 0, 0⟩⟩
  | .comp10 src dst => ⟨0x42, ⟨src, dst, 0, 0⟩⟩
  | .decomp10 dst src => ⟨0x43, ⟨dst, src, 0, 0⟩⟩
  | .comp4 src dst => ⟨0x44, ⟨src, dst, 0, 0⟩⟩
  | .decomp4 dst src => ⟨0x45, ⟨dst, src, 0, 0⟩⟩
  | .tomsg src dst => ⟨0x46, ⟨src, dst, 0, 0⟩⟩
  | .frommsg dst src => ⟨0x47, ⟨dst, src, 0, 0⟩⟩
  | .keygen d z pk sk => ⟨0x50, ⟨d, z, pk, sk⟩⟩
  | .encaps pk m ct key => ⟨0x51, ⟨pk, m, ct, key⟩⟩
  | .decaps sk ct key => ⟨0x52, ⟨sk, ct, key, 0⟩⟩

/-- The byte image of a command (log 15). -/
def Command.toBytes (c : Command) : List Byte :=
  leBytes 4 c.word.toNat ++ leBytes 4 c.args.a0.toNat ++ leBytes 4 c.args.a1.toNat ++
    leBytes 4 c.args.a2.toNat ++ leBytes 4 c.args.a3.toNat

/-- The byte image of an instruction (log 15). -/
def encodeBytes (i : Instr) : List Byte := (encode i).toBytes

end Sys2Proof
end

