-- ==== Sys2Proof/Machine/State.lean ====
section
/-! DEFINITION. The state of the core (10_state.md R20), the events of its two agents and its platform (00_scope.md R14),
the ways a step can stop, and the state after power-on reset (70_reset_and_hazards.md R380). -/

namespace Sys2Proof.Machine

/-- Why the machine stops with a fault: never. The core has no traps (60_exceptions.md R340), every command error is a
completion (R345), and nothing hangs or corrupts (20_memory.md R70). So the type has no value, and no step
raises a fault. Safe: the type says so, no claim assumes it (log 20). -/
inductive Fault where
deriving DecidableEq, Repr

/-- Why a step has no meaning. -/
inductive Refusal where
  /-- Raised by `exec` for a command whose meaning is not written. No arm raises it here. Safe. -/
  | notModelled (mnemonic : String)
  /-- Raised by a host access to the register block that is not 32 bits wide and 4-byte aligned
  (20_memory.md R61, R62). Safe: "A model refuses such an access". -/
  | registerAccess
  /-- Raised by a MEM-window access whose width is not 1, 2 or 4 or that is not naturally aligned
  (20_memory.md R60, R62). Safe: "A model refuses such an access". -/
  | memAccess
  /-- Raised by a host access beyond `BASE + 0x2000 + MEM_SIZE - 1` (20_memory.md R62). Safe: as above. -/
  | beyondWindow
  /-- Raised by a host access below BASE, which does not reach the core (10_state.md R22). Safe: no effect is
  claimed for it (log 17). -/
  | belowBase
deriving DecidableEq, Repr

/-- A polynomial register: 256 cells of 12 bits (10_state.md R34). -/
abbrev Poly := Vector Coef 256

/-- The pending command (10_state.md R32), with two fields of the model's own. -/
structure Pending where
  /-- The written CMD value and the ARG snapshot. -/
  cmd : Command
  /-- MEM addresses inside its regions that the host wrote while BUSY = 1, latest first (20_memory.md R70, log 8). -/
  races : List Nat
  /-- How many engine turns have found one of its rejection loops still running (44_samplers.md R233, log 7). -/
  effort : Nat
deriving DecidableEq, Repr

/-- One host access, at a bus address, of a width in bytes (20_memory.md R60, R61). -/
inductive HostAccess where
  | read (addr width : Nat)
  | write (addr width : Nat) (data : Word)
deriving DecidableEq, Repr

/-- One event of the interleaving (20_memory.md R71, 60_exceptions.md R354). -/
inductive Event where
  /-- The host makes an access. -/
  | host (access : HostAccess)
  /-- The engine takes a turn: it completes the pending command, if there is one (10_state.md R33). -/
  | engine
  /-- The host waits: it reads STATUS again and again until DONE = 1, and then goes on (30_encoding.md R99). -/
  | wait
  /-- The platform applies power-on reset (70_reset_and_hazards.md R380). -/
  | powerOn
deriving DecidableEq, Repr

/-- The MEM bytes written since power-on reset: strictly rising addresses (log 5). -/
abbrev Memory := List Host.Cell

/-- The polynomial registers written since P last became unspecified: strictly rising indexes (log 6). -/
abbrev PregFile := List (Nat × Poly)

/-- The state of the core. STATUS.BUSY is `pending.isSome` (10_state.md R20); CTRL.SRST and CMD hold nothing
(R23, R27); RESULT bits 31:12 read 0 (R29). -/
structure State where
  /-- The parameters of 00_scope.md R8. No step changes them. -/
  params : Params
  /-- CTRL.IE (10_state.md R23). -/
  ie : Bool
  /-- STATUS.DONE (10_state.md R25). -/
  done : Bool
  /-- STATUS.ERR (10_state.md R25). -/
  err : Bool
  /-- STATUS.OVERRUN (10_state.md R25). -/
  overrun : Bool
  /-- STATUS.ERRCODE (10_state.md R25). -/
  errcode : BitVec 4
  /-- ARG0 to ARG3 (10_state.md R28). -/
  args : Args
  /-- RESULT bits 11:0 (10_state.md R29). -/
  result : BitVec 12
  /-- The pending command (10_state.md R32). -/
  pending : Option Pending
  /-- MEM (10_state.md R36), the bytes written since power-on. -/
  mem : Memory
  /-- The draw that gives every MEM byte not listed in `mem`. Model's own (log 5). -/
  memDraw : Nat
  /-- P (10_state.md R34), the registers written since P last became unspecified. -/
  pregs : PregFile
  /-- The draw that gives every polynomial register not listed in `pregs`. Model's own (log 6). -/
  pregDraw : Nat
  /-- The next unused draw of free values. Model's own (log 4). -/
  draws : Nat
  /-- The value the latest host read returned. Model's own (log 14). -/
  readData : Option Word
  /-- The events to come, the next one first. Model's own (log 2). -/
  agenda : List Event
deriving DecidableEq, Repr

/-- The core right after power-on reset (70_reset_and_hazards.md R380), with the default parameters (00_scope.md R8).
MEM and P are unspecified: draw 0 of the free values gives them (log 4). -/
def State.reset : State :=
  { params := Params.default
    ie := false
    done := false
    err := false
    overrun := false
    errcode := 0
    args := Args.zero
    result := 0
    pending := none
    mem := []
    memDraw := 0
    pregs := []
    pregDraw := 0
    draws := 1
    readData := none
    agenda := [] }

end Sys2Proof.Machine
end

