-- ==== Sys2Proof/Machine/Flags.lean ====
section
/-! DEFINITION. The bits of STATUS and CTRL, the words the host reads, write-1-to-clear, and the interrupt level. The core
has no arithmetic flags (10_state.md R38). -/

namespace Sys2Proof.Machine

/-- STATUS.BUSY: a command is pending (10_state.md R20, R25). -/
def State.busy (s : State) : Bool := s.pending.isSome

/-- The interrupt output, a level: `CTRL.IE and STATUS.DONE` (10_state.md R30). -/
def State.irq (s : State) : Bool := s.ie && s.done

/-- Bit `n` of a 32-bit word, set when `b`. -/
def bitAt (n : Nat) (b : Bool) : Word := if b then BitVec.ofNat 32 (2 ^ n) else 0

/-- What a read of CTRL returns: IE in bit 1, every other bit 0 (10_state.md R23). -/
def State.ctrlWord (s : State) : Word := bitAt 1 s.ie

/-- What a read of STATUS returns (10_state.md R25). -/
def State.statusWord (s : State) : Word :=
  bitAt 0 s.busy ||| bitAt 1 s.done ||| bitAt 2 s.err ||| bitAt 3 s.overrun ||| (s.errcode.setWidth 32 <<< 8)

/-- What a read of RESULT returns: bits 31:12 are 0 (10_state.md R29). -/
def State.resultWord (s : State) : Word := s.result.setWidth 32

/-- A write of `v` to STATUS: a 1 in bits 1 to 3 clears DONE, ERR with ERRCODE, OVERRUN; the other bits have no effect
(10_state.md R25). This is the acknowledgement of 60_exceptions.md R352. -/
def State.writeStatus (v : Word) (s : State) : State :=
  { s with
    done := s.done && !v.getLsbD 1
    err := s.err && !v.getLsbD 2
    errcode := if v.getLsbD 2 then 0 else s.errcode
    overrun := s.overrun && !v.getLsbD 3 }

/-- A write of `v` to CTRL with SRST = 0: IE takes bit 1, the reserved bits are ignored (10_state.md R23). -/
def State.writeIe (v : Word) (s : State) : State := { s with ie := v.getLsbD 1 }

end Sys2Proof.Machine
end

