-- ==== Sys2Proof/Machine/Operands.lean ====
section
/-! DEFINITION. The operand kinds of every command (30_encoding.md R91, R94), their assembly (R92), the regions they name
(20_memory.md R64, R65) and the argument check (60_exceptions.md R343). -/

namespace Sys2Proof.Machine

/-- The error codes a command can complete with (60_exceptions.md R341). -/
inductive ErrCode where
  | illegalCmd
  | badArg
  | badPreg
  | badLen
  | badAddr
  | overlap
deriving DecidableEq, Repr

/-- The value of ERRCODE (60_exceptions.md R341). -/
def ErrCode.code : ErrCode → BitVec 4
  | .illegalCmd => 1
  | .badArg => 2
  | .badPreg => 3
  | .badLen => 4
  | .badAddr => 5
  | .overlap => 6

/-- A region of MEM: an address and a length in bytes (20_memory.md R64). -/
structure Region where
  addr : Nat
  len : Nat
deriving DecidableEq, Repr

/-- 20_memory.md R64: an empty region is in range anywhere; otherwise it ends inside MEM, on unbounded integers. -/
def Region.inRange (p : Params) (r : Region) : Bool := r.len == 0 || r.addr + r.len ≤ p.memSize

/-- 20_memory.md R65. -/
def Region.overlaps (r t : Region) : Bool :=
  decide (0 < r.len) && decide (0 < t.len) && decide (r.addr < t.addr + t.len) && decide (t.addr < r.addr + r.len)

/-- Whether a byte address lies in a region. -/
def Region.has (r : Region) (a : Nat) : Bool := decide (r.addr ≤ a) && decide (a < r.addr + r.len)

/-- One operand of a command, with its ARG value: the kinds of 30_encoding.md R91, an `addr` as the input or output
region it names (R94). -/
inductive Operand where
  | input (r : Region)
  | output (r : Region)
  | len (v : Word)
  | preg (v : Word)
  | nonce8 (v : Word)
  | idx16 (v : Word)
  | s32 (v : Word)
deriving DecidableEq, Repr

/-- The input region of `n` bytes at an `addr` operand. -/
@[simp] def Operand.inAt (a : Word) (n : Nat) : Operand := .input ⟨a.toNat, n⟩

/-- The output region of `n` bytes at an `addr` operand. -/
@[simp] def Operand.outAt (a : Word) (n : Nat) : Operand := .output ⟨a.toNat, n⟩

/-- The operands of a command in ARG order (30_encoding.md R94). -/
def operands : Instr → List Operand
  | .nop => []
  | .keccakf src dst => [.inAt src 200, .outAt dst 200]
  | .sha3_256 src len dst => [.inAt src len.toNat, .len len, .outAt dst 32]
  | .sha3_512 src len dst => [.inAt src len.toNat, .len len, .outAt dst 64]
  | .prf seed nonce dst => [.inAt seed 32, .nonce8 nonce, .outAt dst 128]
  | .xof rho idx dst len => [.inAt rho 32, .idx16 idx, .outAt dst len.toNat, .len len]
  | .mulmod a b => [.s32 a, .s32 b]
  | .padd dst a b => [.preg dst, .preg a, .preg b]
  | .psub dst a b => [.preg dst, .preg a, .preg b]
  | .ntt dst src => [.preg dst, .preg src]
  | .intt dst src => [.preg dst, .preg src]
  | .basemul dst a b => [.preg dst, .preg a, .preg b]
  | .cbd2 dst src => [.preg dst, .inAt src 128]
  | .samplentt dst rho idx => [.preg dst, .inAt rho 32, .idx16 idx]
  | .enc12 src dst => [.preg src, .outAt dst 384]
  | .dec12 dst src => [.preg dst, .inAt src 384]
  | .comp10 src dst => [.preg src, .outAt dst 320]
  | .decomp10 dst src => [.preg dst, .inAt src 320]
  | .comp4 src dst => [.preg src, .outAt dst 128]
  | .decomp4 dst src => [.preg dst, .inAt src 128]
  | .tomsg src dst => [.preg src, .outAt dst 32]
  | .frommsg dst src => [.preg dst, .inAt src 32]
  | .keygen d z pk sk => [.inAt d 32, .inAt z 32, .outAt pk 1184, .outAt sk 2400]
  | .encaps pk m ct key => [.inAt pk 1184, .inAt m 32, .outAt ct 1088, .outAt key 32]
  | .decaps sk ct key => [.inAt sk 2400, .inAt ct 1088, .outAt key 32]

/-- The allowed values of a `len` operand (60_exceptions.md R344). -/
@[simp] def allowedLen : Instr → Word → Bool
  | .sha3_512 _ _ _, v => v.toNat == 33 || v.toNat == 64
  | _, _ => true

/-- The region an operand names, if it is an input. -/
@[simp] def Operand.input? : Operand → Option Region
  | .input r => some r
  | _ => none

/-- The region an operand names, if it is an output. -/
@[simp] def Operand.output? : Operand → Option Region
  | .output r => some r
  | _ => none

/-- The input regions of a command, in ARG order. -/
def inputs (i : Instr) : List Region := (operands i).filterMap Operand.input?

/-- The output regions of a command, in ARG order. -/
def outputs (i : Instr) : List Region := (operands i).filterMap Operand.output?

/-- A `nonce8` with bits 31:8 or an `idx16` with bits 31:16 not zero (60_exceptions.md R343). -/
@[simp] def Operand.badArg : Operand → Bool
  | .nonce8 v => v >>> 8 != 0
  | .idx16 v => v >>> 16 != 0
  | _ => false

/-- A `preg` that names no register (60_exceptions.md R343). -/
@[simp] def Operand.badPreg (p : Params) : Operand → Bool
  | .preg v => decide (p.npoly ≤ v.toNat)
  | _ => false

/-- A `len` outside the allowed set of the command (60_exceptions.md R343, R344). -/
@[simp] def Operand.badLen (i : Instr) : Operand → Bool
  | .len v => !allowedLen i v
  | _ => false

/-- Whether some output overlaps an input or another output (20_memory.md R65). -/
@[simp] def outputsOverlap (ins : List Region) : List Region → Bool
  | [] => false
  | o :: os => ins.any o.overlaps || os.any o.overlaps || outputsOverlap ins os

/-- The argument check, in its fixed order (60_exceptions.md R343), after the command word is known to be legal. It
reads the operands and the parameters only. -/
def check (p : Params) (i : Instr) : Option ErrCode :=
  if (operands i).any Operand.badArg then some .badArg
  else if (operands i).any (Operand.badPreg p) then some .badPreg
  else if (operands i).any (Operand.badLen i) then some .badLen
  else if (inputs i ++ outputs i).any (fun r => !r.inRange p) then some .badAddr
  else if outputsOverlap (inputs i) (outputs i) then some .overlap
  else none

/-- What a command writes besides MEM and STATUS: the "Registers written" lines of files 41 to 47. -/
inductive Dest where
  | nothing
  | preg (d : Word)
  | allPregs
  | result
deriving DecidableEq, Repr

/-- What each command writes besides MEM and STATUS. -/
def dest : Instr → Dest
  | .mulmod _ _ => .result
  | .padd d _ _ | .psub d _ _ | .ntt d _ | .intt d _ | .basemul d _ _ | .cbd2 d _ | .samplentt d _ _ => .preg d
  | .dec12 d _ | .decomp10 d _ | .decomp4 d _ | .frommsg d _ => .preg d
  | .keygen _ _ _ _ | .encaps _ _ _ _ | .decaps _ _ _ => .allPregs
  | .nop | .keccakf _ _ | .sha3_256 _ _ _ | .sha3_512 _ _ _ | .prf _ _ _ | .xof _ _ _ _ => .nothing
  | .enc12 _ _ | .comp10 _ _ | .comp4 _ _ | .tomsg _ _ => .nothing

/-- The byte of a `nonce8` operand (30_encoding.md R92). -/
def nonceByte (v : Word) : Byte := v.extractLsb' 0 8

/-- XOF input byte 32 of an `idx16` operand: bits 7:0 (30_encoding.md R92, R93). -/
def idxFirst (v : Word) : Byte := v.extractLsb' 0 8

/-- XOF input byte 33 of an `idx16` operand: bits 15:8 (30_encoding.md R92, R93). -/
def idxSecond (v : Word) : Byte := v.extractLsb' 8 8

/-- The signed value of an `s32` operand (30_encoding.md R92). -/
def signedArg (v : Word) : Int := v.toInt

end Sys2Proof.Machine
end

