-- ==== Sys2Proof/Machine/Ops.lean ====
section
/-! DEFINITION. The shared operations: sparse files, MEM bytes and polynomial registers, free values, completion with and
without an error, races, and the one frame in which every command runs (10_state.md R33). -/

namespace Sys2Proof.Machine

/-! ### Sparse files: strictly rising keys -/

/-- The value listed under a key. -/
def lookup {β : Type} (a : Nat) : List (Nat × β) → Option β
  | [] => none
  | (k, v) :: m => if k = a then some v else lookup a m

/-- List a value under a key, in key order, in place of what stood there. -/
def store {β : Type} (a : Nat) (v : β) : List (Nat × β) → List (Nat × β)
  | [] => [(a, v)]
  | (k, w) :: m =>
    if a < k then (a, v) :: (k, w) :: m
    else if a = k then (a, v) :: m
    else (k, w) :: store a v m

/-- The canonical form: keys strictly rising (log 5). -/
abbrev Sparse.wf {β : Type} (m : List (Nat × β)) : Prop := (m.map Prod.fst).Pairwise (· < ·)

/-- MEM is in canonical form. What an unlisted address reads as is no value of this list, so no entry equals it (log 5). -/
abbrev Memory.wf (m : Memory) : Prop := Sparse.wf m

/-! ### MEM -/

/-- The byte of MEM at an address; one not written since power-on reset holds the value drawn there
(70_reset_and_hazards.md R384). -/
def State.readByte (s : State) (a : Nat) : Byte := (lookup a s.mem).getD (Config.freeByte s.memDraw a)

/-- `MemRead(a, n)` (00_scope.md R11). -/
def State.readBytes (s : State) (a n : Nat) : List Byte := (List.range n).map fun k => s.readByte (a + k)

/-- Write one byte of MEM. -/
def State.writeByte (a : Nat) (v : Byte) (s : State) : State := { s with mem := store a v s.mem }

/-- `MemWrite(a, n, B)` (00_scope.md R11). -/
def State.writeBytes : Nat → List Byte → State → State
  | _, [], s => s
  | a, b :: bs, s => State.writeBytes (a + 1) bs (s.writeByte a b)

/-! ### Free values: draw `n` of the opaque constants of Config (log 4) -/

/-- `n` bytes of `any([0, 256))` for MEM addresses from `a`. -/
def freeBytes (draw a n : Nat) : List Byte := (List.range n).map fun k => Config.freeByte draw (a + k)

/-- The register contents that a list of 256 cells is. -/
def Poly.ofList (l : List Coef) (h : l.length = 256) : Poly := ⟨l.toArray, h⟩

/-- A polynomial of `any([0, 4096))` for register `r`. -/
def freePoly (draw r : Nat) : Poly := Poly.ofList ((List.range 256).map (Config.freeCell draw r)) (by rw [List.length_map, List.length_range])

/-- A draw has been used. -/
def State.spend (s : State) : State := { s with draws := s.draws + 1 }

/-! ### Polynomial registers -/

/-- The coefficients of a polynomial register. -/
def Poly.coeffs (f : Poly) : List Nat := f.toList.map (·.toNat)

/-- The register contents that hold a list of 256 coefficients below 4096. -/
def Poly.ofCoeffs (l : List Nat) : Poly :=
  Poly.ofList (((l ++ List.replicate 256 0).take 256).map (BitVec.ofNat 12)) (by
    rw [List.length_map, List.length_take, List.length_append, List.length_replicate]
    exact Nat.min_eq_left (Nat.le_add_left 256 l.length))

/-- `P[r]` (00_scope.md R11); a register not written since P became unspecified holds the values drawn there. -/
def State.preg (s : State) (r : Nat) : Poly := (lookup r s.pregs).getD (freePoly s.pregDraw r)

/-- `P[r] <- f` (00_scope.md R11). -/
def State.setPreg (r : Nat) (f : Poly) (s : State) : State := { s with pregs := store r f s.pregs }

/-- Every cell of every register becomes `any([0, 4096))` (46_kem.md R299, 70_reset_and_hazards.md R382). -/
def State.forgetPregs (s : State) : State := { s with pregs := [], pregDraw := s.draws }

/-- Every coefficient is below q (10_state.md R38). -/
def canonical (l : List Nat) : Bool := l.all fun x => decide (x < q)

/-- Write `any` cells to one register: the output of a command on out-of-contract data (decision D14). -/
def State.freePreg (r : Nat) (s : State) : State := (s.setPreg r (freePoly s.draws r)).spend

/-- Write `any` bytes to a MEM region: the output of a command on out-of-contract data (decision D14). -/
def State.freeMem (a n : Nat) (s : State) : State := (s.writeBytes a (freeBytes s.draws a n)).spend

/-! ### Completion (10_state.md R33, 60_exceptions.md R345) -/

/-- Completion of a command that passed its checks: BUSY falls, DONE rises. -/
def State.completeOk (s : State) : State := { s with pending := none, done := true }

/-- Completion of a command that failed a check: the one way the core reports an error (60_exceptions.md R340, R345).
What the host does to return is `State.writeStatus` (R352). -/
def State.completeErr (e : ErrCode) (s : State) : State :=
  { s with pending := none, done := true, err := true, errcode := e.code }

/-! ### Races and aborted commands (20_memory.md R70, 70_reset_and_hazards.md R382) -/

/-- The MEM addresses the host raced on. -/
def State.races (s : State) : List Nat :=
  match s.pending with
  | some p => p.races
  | none => []

/-- The bytes of a region that exist: a region is cut at the end of MEM (log 10). -/
def Region.clip (p : Params) (r : Region) : Region := ⟨r.addr, min r.len (p.memSize - r.addr)⟩

/-- Every byte of the regions becomes `any`, all from the present draw. -/
def State.scramble : List Region → State → State
  | [], s => s
  | r :: rs, s =>
    let c := r.clip s.params
    State.scramble rs (s.writeBytes c.addr (freeBytes s.draws c.addr c.len))

/-- The single bytes become `any`, all from the present draw. -/
def State.scrambleBytes : List Nat → State → State
  | [], s => s
  | a :: as, s => State.scrambleBytes as (s.writeByte a (Config.freeByte s.draws a))

/-- What a command writes besides MEM becomes `any`. -/
def State.scrambleDest : Dest → State → State
  | .nothing, s => s
  | .preg d, s => s.setPreg d.toNat (freePoly s.draws d.toNat)
  | .allPregs, s => s.forgetPregs
  | .result, s => { s with result := Config.freeResult s.draws }

/-- The completion of a raced command: every output byte, every raced byte and every register the command writes holds
`any` (20_memory.md R70). -/
def State.raceOutcome (i : Instr) (s : State) : State :=
  (((s.scramble (outputs i)).scrambleBytes s.races).scrambleDest (dest i)).spend.completeOk

/-- A failed command writes nothing but STATUS (60_exceptions.md R345); where the host raced on it, its output bytes and
the raced bytes hold `any` as 20_memory.md R70 says (log 8). -/
def State.failCommand (e : ErrCode) (outs : List Region) (s : State) : State :=
  match s.races with
  | [] => s.completeErr e
  | rs => ((s.scramble outs).scrambleBytes rs).spend.completeErr e

/-! ### Running a command -/

/-- The rejection loops have not stopped yet: the command stays pending, BUSY stays 1 (44_samplers.md R233, log 7). -/
def State.notYet (s : State) : State :=
  { s with pending := s.pending.map fun p => { p with effort := p.effort + 1 } }

/-- How many 168-byte XOF windows the engine looks at before it leaves the command pending (log 7). -/
def State.windows (s : State) : Nat :=
  8 + match s.pending with
    | some p => p.effort
    | none => 0

/-- The frame of every command (10_state.md R33): the argument check, then the command's own effect, then completion.
An effect of `none` says that a rejection loop is still running, raced or not (70_reset_and_hazards.md R395); a raced
command whose effect is ready leaves `any` in its place (20_memory.md R70). -/
def runCommand (i : Instr) (effect : State → Option State) (s : State) : Host.Outcome State Fault Refusal :=
  .next
    (match check s.params i with
      | some e => s.failCommand e (outputs i)
      | none =>
        match effect s with
        | none => s.notYet
        | some t =>
          match s.races with
          | [] => t.completeOk
          | _ :: _ => s.raceOutcome i)

/-- The engine fetches the pending command (10_state.md R32). -/
def State.fetch (s : State) : Option Command := s.pending.map (·.cmd)

/-- The regions of the pending command, as its snapshot names them: (inputs, outputs). An illegal command has none. -/
def State.pendingRegions (s : State) : List Region × List Region :=
  match s.fetch with
  | none => ([], [])
  | some c =>
    match decodeCommand c with
    | .ok i => (inputs i, outputs i)
    | .error _ => ([], [])

end Sys2Proof.Machine
end

