-- ==== Sys2Proof/Machine/Codec.lean ====
section
/-! DEFINITION. The polynomial codec and the commands ENC12, DEC12, COMP10, DECOMP10, COMP4, DECOMP4, TOMSG and FROMMSG
(45_codec.md). -/

namespace Sys2Proof.Machine

/-- The low `d` bits of a number, least significant first (45_codec.md R250). -/
def bitsOf (d v : Nat) : List Bool := (List.range d).map fun j => v.testBit j

/-- The number whose bits are given, least significant first. -/
def ofBits : List Bool → Nat
  | [] => 0
  | b :: bs => b.toNat + 2 * ofBits bs

/-- `n` numbers of `d` bits each, cut off a bit stream in order. -/
def cut (d : Nat) : Nat → List Bool → List Nat
  | 0, _ => []
  | n + 1, bs => ofBits (bs.take d) :: cut d n (bs.drop d)

/-- `ByteEncode_d(F)`: bit j of F[i] is stream bit i·d + j, and stream bit s is bit s mod 8 of byte s div 8
(45_codec.md R250). -/
def byteEncode (d : Nat) (F : List Nat) : List Byte := (cut 8 (32 * d) (F.flatMap (bitsOf d))).map (BitVec.ofNat 8)

/-- `ByteDecode_d(B)`, with no reduction modulo q (45_codec.md R251). -/
def byteDecode (d : Nat) (B : List Byte) : List Nat := cut d 256 (B.flatMap fun b => bitsOf 8 b.toNat)

/-- `Compress_d(x)` (45_codec.md R252). -/
def compress (d x : Nat) : Nat := ((x * 2 ^ d + 1664) / q) % 2 ^ d

/-- `Decompress_d(y)` (45_codec.md R253). -/
def decompress (d y : Nat) : Nat := (y * q + 2 ^ (d - 1)) / 2 ^ d

/-- `Encode_msg(M)`: 1665 for a 1 bit, 0 for a 0 bit (45_codec.md R254). -/
def encodeMsg (M : List Byte) : List Nat := (byteDecode 1 M).map (1665 * ·)

/-- The message bit of a coefficient: 4x > q + 2 and 4x < 3q, in exact arithmetic (45_codec.md R255). -/
def msgBit (x : Nat) : Nat := if 4 * x > q + 2 ∧ 4 * x < 3 * q then 1 else 0

/-- `Decode_msg(F)` (45_codec.md R255). -/
def decodeMsg (F : List Nat) : List Byte := byteEncode 1 (F.map msgBit)

/-- Encode12 and Decode12, Compress10, Compress4, Decompress10, Decompress4 of a polynomial (45_codec.md R256). -/
def enc12 (F : List Nat) : List Byte := byteEncode 12 F

/-- Decode12 (45_codec.md R256). -/
def dec12 (B : List Byte) : List Nat := byteDecode 12 B

/-- Compress10 (45_codec.md R256). -/
def comp10 (F : List Nat) : List Byte := byteEncode 10 (F.map (compress 10))

/-- Compress4 (45_codec.md R256). -/
def comp4 (F : List Nat) : List Byte := byteEncode 4 (F.map (compress 4))

/-- Decompress10 (45_codec.md R256). -/
def decomp10 (B : List Byte) : List Nat := (byteDecode 10 B).map (decompress 10)

/-- Decompress4 (45_codec.md R256). -/
def decomp4 (B : List Byte) : List Nat := (byteDecode 4 B).map (decompress 4)

/-- A command that writes `n` bytes computed from `P[src]`: `any` bytes where it is not canonical (45_codec.md, decision
D14), unless the command takes every cell value. -/
def pregToMem (n : Nat) (f : List Nat → List Byte) (takesAll : Bool) (src dst : Word) (s : State) : Option State :=
  let F := (s.preg src.toNat).coeffs
  if canonical F || takesAll then some (s.writeBytes dst.toNat (f F)) else some (s.freeMem dst.toNat n)

/-- A command that computes `P[dst]` from `n` bytes of MEM. -/
def memToPreg (n : Nat) (f : List Byte → List Nat) (dst src : Word) (s : State) : Option State :=
  some (s.setPreg dst.toNat (Poly.ofCoeffs (f (s.readBytes src.toNat n))))

/-- ENC12 (45_codec.md R260). A canonical register is serialised; of another one the spec says both that its cells are
serialised unchanged (R260) and that the output bytes are `any` (93_implementation_defined.md U1): `Config.enc12Keeps`
leaves open which (log 12). -/
def execEnc12 (src dst : Word) (s : State) : Host.Outcome State Fault Refusal :=
  runCommand (.enc12 src dst) (pregToMem 384 enc12 Config.enc12Keeps src dst) s

/-- DEC12 (45_codec.md R261). -/
def execDec12 (dst src : Word) (s : State) : Host.Outcome State Fault Refusal :=
  runCommand (.dec12 dst src) (memToPreg 384 dec12 dst src) s

/-- COMP10 (45_codec.md R262). -/
def execComp10 (src dst : Word) (s : State) : Host.Outcome State Fault Refusal :=
  runCommand (.comp10 src dst) (pregToMem 320 comp10 false src dst) s

/-- DECOMP10 (45_codec.md R263). -/
def execDecomp10 (dst src : Word) (s : State) : Host.Outcome State Fault Refusal :=
  runCommand (.decomp10 dst src) (memToPreg 320 decomp10 dst src) s

/-- COMP4 (45_codec.md R264). -/
def execComp4 (src dst : Word) (s : State) : Host.Outcome State Fault Refusal :=
  runCommand (.comp4 src dst) (pregToMem 128 comp4 false src dst) s

/-- DECOMP4 (45_codec.md R265). -/
def execDecomp4 (dst src : Word) (s : State) : Host.Outcome State Fault Refusal :=
  runCommand (.decomp4 dst src) (memToPreg 128 decomp4 dst src) s

/-- TOMSG (45_codec.md R266). -/
def execTomsg (src dst : Word) (s : State) : Host.Outcome State Fault Refusal :=
  runCommand (.tomsg src dst) (pregToMem 32 decodeMsg false src dst) s

/-- FROMMSG (45_codec.md R267). -/
def execFrommsg (dst src : Word) (s : State) : Host.Outcome State Fault Refusal :=
  runCommand (.frommsg dst src) (memToPreg 32 encodeMsg dst src) s

end Sys2Proof.Machine
end

