-- ==== Sys2Proof/Machine/ModArith.lean ====
section
/-! DEFINITION. Arithmetic modulo q = 3329 and the commands MULMOD, PADD and PSUB (42_modarith.md). -/

namespace Sys2Proof.Machine

/-- `mul_mod(a, b)`: the Euclidean residue of the exact product (42_modarith.md R170). -/
def mulMod (a b : Int) : Nat := ((a * b) % (q : Int)).toNat

/-- `add_q(a, b)` (42_modarith.md R175). -/
def addQ (a b : Nat) : Nat := (a + b) % q

/-- `sub_q(a, b)`: the Euclidean residue of the difference, never negative (42_modarith.md R175). -/
def subQ (a b : Nat) : Nat := (((a : Int) - (b : Int)) % (q : Int)).toNat

/-- Coefficient-wise sum mod q (42_modarith.md R173). -/
def polyAdd (f g : List Nat) : List Nat := List.zipWith addQ f g

/-- Coefficient-wise difference mod q (42_modarith.md R174). -/
def polySub (f g : List Nat) : List Nat := List.zipWith subQ f g

/-- The operand contract of MULMOD: −(q−1) ≤ a ≤ q−1 (42_modarith.md R171). -/
def inMulRange (a : Int) : Bool := decide (-(q - 1 : Int) ≤ a) && decide (a ≤ (q - 1 : Int))

/-- A command that computes `P[d]` from `P[a]`: `any` cells outside the contract (decision D14). Both registers are read
before the destination is written (20_memory.md R67). -/
def pregUnary (f : List Nat → List Nat) (d a : Word) (s : State) : Option State :=
  let A := (s.preg a.toNat).coeffs
  if canonical A then some (s.setPreg d.toNat (Poly.ofCoeffs (f A))) else some (s.freePreg d.toNat)

/-- A command that computes `P[d]` from `P[a]` and `P[b]`: `any` cells outside the contract (decision D14). -/
def pregBinary (f : List Nat → List Nat → List Nat) (d a b : Word) (s : State) : Option State :=
  let A := (s.preg a.toNat).coeffs
  let B := (s.preg b.toNat).coeffs
  if canonical A && canonical B then some (s.setPreg d.toNat (Poly.ofCoeffs (f A B))) else some (s.freePreg d.toNat)

/-- MULMOD (42_modarith.md R171). -/
def execMulmod (a b : Word) (s : State) : Host.Outcome State Fault Refusal :=
  runCommand (.mulmod a b)
    (fun s =>
      if inMulRange (signedArg a) && inMulRange (signedArg b) then
        some { s with result := BitVec.ofNat 12 (mulMod (signedArg a) (signedArg b)) }
      else some { s with result := Config.freeResult s.draws, draws := s.draws + 1 }) s

/-- PADD (42_modarith.md R173). -/
def execPadd (dst a b : Word) (s : State) : Host.Outcome State Fault Refusal :=
  runCommand (.padd dst a b) (pregBinary polyAdd dst a b) s

/-- PSUB (42_modarith.md R174). -/
def execPsub (dst a b : Word) (s : State) : Host.Outcome State Fault Refusal :=
  runCommand (.psub dst a b) (pregBinary polySub dst a b) s

end Sys2Proof.Machine
end

