-- ==== Sys2Proof/Machine/Ntt.lean ====
section
/-! DEFINITION. The forward and inverse NTT, the base-case product, their tables, and the commands NTT, INTT and BASEMUL
(43_ntt.md). -/

namespace Sys2Proof.Machine

/-- ZETAS[i] = 17^brv7(i) mod q (43_ntt.md R191). -/
def zetas : List Nat :=
  [1, 1729, 2580, 3289, 2642, 630, 1897, 848, 1062, 1919, 193, 797, 2786, 3260, 569, 1746,
   296, 2447, 1339, 1476, 3046, 56, 2240, 1333, 1426, 2094, 535, 2882, 2393, 2879, 1974, 821,
   289, 331, 3253, 1756, 1197, 2304, 2277, 2055, 650, 1977, 2513, 632, 2865, 33, 1320, 1915,
   2319, 1435, 807, 452, 1438, 2868, 1534, 2402, 2647, 2617, 1481, 648, 2474, 3110, 1227, 910,
   17, 2761, 583, 2649, 1637, 723, 2288, 1100, 1409, 2662, 3281, 233, 756, 2156, 3015, 3050,
   1703, 1651, 2789, 1789, 1847, 952, 1461, 2687, 939, 2308, 2437, 2388, 733, 2337, 268, 641,
   1584, 2298, 2037, 3220, 375, 2549, 2090, 1645, 1063, 319, 2773, 757, 2099, 561, 2466, 2594,
   2804, 1092, 403, 1026, 1143, 2150, 2775, 886, 1722, 1212, 1874, 1029, 2110, 2935, 885, 2154]

/-- GAMMAS[i] = 17^(2·brv7(i)+1) mod q (43_ntt.md R192). -/
def gammas : List Nat :=
  [17, 3312, 2761, 568, 583, 2746, 2649, 680, 1637, 1692, 723, 2606, 2288, 1041, 1100, 2229,
   1409, 1920, 2662, 667, 3281, 48, 233, 3096, 756, 2573, 2156, 1173, 3015, 314, 3050, 279,
   1703, 1626, 1651, 1678, 2789, 540, 1789, 1540, 1847, 1482, 952, 2377, 1461, 1868, 2687, 642,
   939, 2390, 2308, 1021, 2437, 892, 2388, 941, 733, 2596, 2337, 992, 268, 3061, 641, 2688,
   1584, 1745, 2298, 1031, 2037, 1292, 3220, 109, 375, 2954, 2549, 780, 2090, 1239, 1645, 1684,
   1063, 2266, 319, 3010, 2773, 556, 757, 2572, 2099, 1230, 561, 2768, 2466, 863, 2594, 735,
   2804, 525, 1092, 2237, 403, 2926, 1026, 2303, 1143, 2186, 2150, 1179, 2775, 554, 886, 2443,
   1722, 1607, 1212, 2117, 1874, 1455, 1029, 2300, 2110, 1219, 2935, 394, 885, 2444, 2154, 1175]

/-- The Cooley–Tukey butterflies of one block of 2·len coefficients, with one zeta (43_ntt.md R190). -/
def fwdBlock (len zeta : Nat) (x : List Nat) : List Nat :=
  let lo := x.take len
  let t := (x.drop len).map fun c : Nat => mulMod zeta c
  List.zipWith addQ lo t ++ List.zipWith subQ lo t

/-- `n` blocks in turn; the zeta index goes up by one per block (43_ntt.md R190). -/
def fwdLayer (len : Nat) : Nat → Nat → List Nat → List Nat
  | 0, _, _ => []
  | n + 1, i, x =>
    fwdBlock len (zetas.getD i 0) (x.take (2 * len)) ++ fwdLayer len n (i + 1) (x.drop (2 * len))

/-- `ntt(f)`: len = 128, 64, …, 2. The layer of length len has 256 / (2·len) = 128 / len blocks, and its first zeta index
is that number too, since the index starts at 1 and the layers before it took 1 + 2 + … of them (43_ntt.md R190). -/
def ntt (f : List Nat) : List Nat :=
  [128, 64, 32, 16, 8, 4, 2].foldl (fun x len => fwdLayer len (128 / len) (128 / len) x) f

/-- The Gentleman–Sande butterflies of one block of 2·len coefficients (43_ntt.md R193). -/
def invBlock (len zetaInv : Nat) (x : List Nat) : List Nat :=
  let a := x.take len
  let b := x.drop len
  List.zipWith addQ a b ++ (List.zipWith subQ a b).map fun c : Nat => mulMod c zetaInv

/-- `n` blocks in turn; the zeta index goes down by one per block, each zeta negated (43_ntt.md R193). -/
def invLayer (len : Nat) : Nat → Nat → List Nat → List Nat
  | 0, _, _ => []
  | n + 1, i, x =>
    invBlock len (q - zetas.getD i 0) (x.take (2 * len)) ++ invLayer len n (i - 1) (x.drop (2 * len))

/-- `intt(f)`: len = 2, 4, …, 128, then the scale by 3303. The index starts at 127, so the layer of length len starts at
2·(128 / len) − 1 (43_ntt.md R193). -/
def intt (f : List Nat) : List Nat :=
  ([2, 4, 8, 16, 32, 64, 128].foldl (fun x len => invLayer len (128 / len) (2 * (128 / len) - 1) x) f).map
    fun c : Nat => mulMod c 3303

/-- The base cases, one twist constant per coefficient pair (43_ntt.md R194). -/
def basemulPairs : List Nat → List Nat → List Nat → List Nat
  | g :: gs, a0 :: a1 :: a, b0 :: b1 :: b =>
    (a0 * b0 + g * mulMod a1 b1) % q :: (a0 * b1 + a1 * b0) % q :: basemulPairs gs a b
  | _, _, _ => []

/-- `basemul(a, b)` (43_ntt.md R194). -/
def basemul (a b : List Nat) : List Nat := basemulPairs gammas a b

/-- NTT (43_ntt.md R195). -/
def execNtt (dst src : Word) (s : State) : Host.Outcome State Fault Refusal :=
  runCommand (.ntt dst src) (pregUnary ntt dst src) s

/-- INTT (43_ntt.md R196). -/
def execIntt (dst src : Word) (s : State) : Host.Outcome State Fault Refusal :=
  runCommand (.intt dst src) (pregUnary intt dst src) s

/-- BASEMUL (43_ntt.md R197). -/
def execBasemul (dst a b : Word) (s : State) : Host.Outcome State Fault Refusal :=
  runCommand (.basemul dst a b) (pregBinary basemul dst a b) s

end Sys2Proof.Machine
end

