-- ==== Sys2Proof/Machine/Keccak.lean ====
section
/-! DEFINITION. The Keccak-f[1600] permutation, the sponge, H, G, PRF and XOF, and the five commands over them
(41_keccak_sponge.md). -/

namespace Sys2Proof.Machine

/-- The Keccak state: 25 lanes, lane (x, y) at position x + 5y (41_keccak_sponge.md R120, R127). -/
abbrev Lanes := List Lane

/-- `A[x][y]`, indexes modulo 5 (41_keccak_sponge.md R120). -/
def lane (A : Lanes) (x y : Nat) : Lane := A.getD (x % 5 + 5 * (y % 5)) 0

/-- The state with lane (x, y) given by a function. -/
def lanesOf (f : Nat → Nat → Lane) : Lanes := (List.range 25).map fun k => f (k % 5) (k / 5)

/-- 64-bit left rotation by `s` mod 64 (00_scope.md R9). -/
def rotl64 (v : Lane) (s : Nat) : Lane := v.rotateLeft (s % 64)

/-- θ: the parity of column x (41_keccak_sponge.md R121). -/
def columnParity (A : Lanes) (x : Nat) : Lane :=
  lane A x 0 ^^^ lane A x 1 ^^^ lane A x 2 ^^^ lane A x 3 ^^^ lane A x 4

/-- θ (41_keccak_sponge.md R121). -/
def theta (A : Lanes) : Lanes :=
  let C := (List.range 5).map (columnParity A)
  let D := (List.range 5).map fun x => C.getD ((x + 4) % 5) 0 ^^^ rotl64 (C.getD ((x + 1) % 5) 0) 1
  lanesOf fun x y => lane A x y ^^^ D.getD x 0

/-- Row x of the table of rotation offsets, y = 0 to 4 (41_keccak_sponge.md R122). -/
def rotRow : Nat → List Nat
  | 0 => [0, 36, 3, 41, 18]
  | 1 => [1, 44, 10, 45, 2]
  | 2 => [62, 6, 43, 15, 61]
  | 3 => [28, 55, 25, 21, 56]
  | _ => [27, 20, 39, 8, 14]

/-- ROT[x][y] (41_keccak_sponge.md R122). -/
def rotOffset (x y : Nat) : Nat := (rotRow x).getD y 0

/-- ρ (41_keccak_sponge.md R122). -/
def rho (A : Lanes) : Lanes := lanesOf fun x y => rotl64 (lane A x y) (rotOffset x y)

/-- π: `A'[x][y] = A[(x+3y) mod 5][x]` (41_keccak_sponge.md R123). -/
def piStep (A : Lanes) : Lanes := lanesOf fun x y => lane A (x + 3 * y) x

/-- χ (41_keccak_sponge.md R124). -/
def chi (A : Lanes) : Lanes := lanesOf fun x y => lane A x y ^^^ (~~~(lane A (x + 1) y) &&& lane A (x + 2) y)

/-- The table of 41_keccak_sponge.md R125, row by row: KECCAK_RC[ir] beside KECCAK_RC[ir + 12]. -/
def keccakRcRows : List (Lane × Lane) :=
  [(0x0000000000000001, 0x000000008000808B),
   (0x0000000000008082, 0x800000000000008B),
   (0x800000000000808A, 0x8000000000008089),
   (0x8000000080008000, 0x8000000000008003),
   (0x000000000000808B, 0x8000000000008002),
   (0x0000000080000001, 0x8000000000000080),
   (0x8000000080008081, 0x000000000000800A),
   (0x8000000000008009, 0x800000008000000A),
   (0x000000000000008A, 0x8000000080008081),
   (0x0000000000000088, 0x8000000000008080),
   (0x0000000080008009, 0x0000000080000001),
   (0x000000008000000A, 0x8000000080008008)]

/-- KECCAK_RC: the left column of the table, then the right one (41_keccak_sponge.md R125). -/
def keccakRc : List Lane := keccakRcRows.map Prod.fst ++ keccakRcRows.map Prod.snd

/-- ι (41_keccak_sponge.md R125). -/
def iota (A : Lanes) (rc : Lane) : Lanes := lanesOf fun x y => if x = 0 ∧ y = 0 then lane A x y ^^^ rc else lane A x y

/-- One round: θ, ρ, π, χ, ι in this order (41_keccak_sponge.md R126). -/
def keccakRound (A : Lanes) (rc : Lane) : Lanes := iota (chi (piStep (rho (theta A)))) rc

/-- Keccak-f[1600]: 24 rounds (41_keccak_sponge.md R126). -/
def keccakF (A : Lanes) : Lanes := keccakRc.foldl keccakRound A

/-- The state of a 200-byte string: word x + 5y is lane (x, y), little-endian (41_keccak_sponge.md R127). -/
def lanesOfBytes (S : List Byte) : Lanes :=
  (List.range 25).map fun w => BitVec.ofNat 64 (leNat ((S.drop (8 * w)).take 8))

/-- The 200-byte string of a state (41_keccak_sponge.md R127). -/
def bytesOfLanes (A : Lanes) : List Byte := A.flatMap fun v => leBytes 8 v.toNat

/-- `KeccakF_bytes` (41_keccak_sponge.md R127). -/
def keccakFBytes (S : List Byte) : List Byte := bytesOfLanes (keccakF (lanesOfBytes S))

/-- The padded message: zeros to a whole number of blocks, the domain byte after the message, 0x80 on the last byte
(41_keccak_sponge.md R128). -/
def padded (M : List Byte) (r : Nat) (ds : Byte) : List Byte :=
  let nblk := M.length / r + 1
  let P := M ++ List.replicate (nblk * r - M.length) 0
  (P.modify M.length (· ^^^ ds)).modify (nblk * r - 1) (· ^^^ 0x80)

/-- Xor a block into the front of the state bytes (41_keccak_sponge.md R128). -/
def xorInto (S B : List Byte) : List Byte := List.zipWith (· ^^^ ·) S B ++ S.drop B.length

/-- Absorb `n` blocks of `r` bytes (41_keccak_sponge.md R128). -/
def absorb (r : Nat) : Nat → List Byte → List Byte → List Byte
  | 0, _, S => S
  | n + 1, P, S => absorb r n (P.drop r) (keccakFBytes (xorInto S (P.take r)))

/-- Squeeze `need` bytes, `r` per permutation; `n` bounds the number of blocks (41_keccak_sponge.md R128). -/
def squeeze (r : Nat) : Nat → Nat → List Byte → List Byte
  | 0, _, _ => []
  | n + 1, need, S => if need ≤ r then S.take need else S.take r ++ squeeze r n (need - r) (keccakFBytes S)

/-- The state bytes after absorbing the padded message (41_keccak_sponge.md R128). -/
def absorbed (M : List Byte) (r : Nat) (ds : Byte) : List Byte :=
  absorb r (M.length / r + 1) (padded M r ds) (List.replicate 200 0)

/-- `Sponge(M, r, ds, L)` (41_keccak_sponge.md R128). -/
def sponge (M : List Byte) (r : Nat) (ds : Byte) (L : Nat) : List Byte := squeeze r (L / r + 1) L (absorbed M r ds)

/-- H, SHA3-256 (41_keccak_sponge.md R130). -/
def hashH (M : List Byte) : List Byte := sponge M 136 0x06 32

/-- G, SHA3-512 (41_keccak_sponge.md R131). -/
def hashG (M : List Byte) : List Byte := sponge M 72 0x06 64

/-- PRF, SHAKE256 of seed ∥ N (41_keccak_sponge.md R132). -/
def prfBytes (seed : List Byte) (N : Byte) : List Byte := sponge (seed ++ [N]) 136 0x1F 128

/-- XOF, SHAKE128 of ρ ∥ b32 ∥ b33 (41_keccak_sponge.md R133). -/
def xofBytes (rhoSeed : List Byte) (b32 b33 : Byte) (L : Nat) : List Byte := sponge (rhoSeed ++ [b32, b33]) 168 0x1F L

/-! ### Commands -/

/-- KECCAKF (41_keccak_sponge.md R134). -/
def execKeccakf (src dst : Word) (s : State) : Host.Outcome State Fault Refusal :=
  runCommand (.keccakf src dst) (fun s => some (s.writeBytes dst.toNat (keccakFBytes (s.readBytes src.toNat 200)))) s

/-- SHA3_256 (41_keccak_sponge.md R135). -/
def execSha3_256 (src len dst : Word) (s : State) : Host.Outcome State Fault Refusal :=
  runCommand (.sha3_256 src len dst)
    (fun s => some (s.writeBytes dst.toNat (hashH (s.readBytes src.toNat len.toNat)))) s

/-- SHA3_512 (41_keccak_sponge.md R136). -/
def execSha3_512 (src len dst : Word) (s : State) : Host.Outcome State Fault Refusal :=
  runCommand (.sha3_512 src len dst)
    (fun s => some (s.writeBytes dst.toNat (hashG (s.readBytes src.toNat len.toNat)))) s

/-- PRF (41_keccak_sponge.md R137). -/
def execPrf (seed nonce dst : Word) (s : State) : Host.Outcome State Fault Refusal :=
  runCommand (.prf seed nonce dst)
    (fun s => some (s.writeBytes dst.toNat (prfBytes (s.readBytes seed.toNat 32) (nonceByte nonce)))) s

/-- XOF (41_keccak_sponge.md R138). -/
def execXof (rhoAt idx dst len : Word) (s : State) : Host.Outcome State Fault Refusal :=
  runCommand (.xof rhoAt idx dst len)
    (fun s =>
      some (s.writeBytes dst.toNat
        (xofBytes (s.readBytes rhoAt.toNat 32) (idxFirst idx) (idxSecond idx) len.toNat))) s

end Sys2Proof.Machine
end

