-- ==== Sys2Proof/Machine/Samplers.lean ====
section
/-! DEFINITION. The centered-binomial sampler, the rejection sampler, and the commands CBD2 and SAMPLENTT
(44_samplers.md). -/

namespace Sys2Proof.Machine

/-- Bit `j` of a number, as 0 or 1. -/
def bitNat (v j : Nat) : Nat := (v.testBit j).toNat

/-- The centered sample of nibble `h` of a byte, negative ones plus q (44_samplers.md R220). -/
def cbdNibble (b : Byte) (h : Nat) : Nat :=
  let sa := bitNat b.toNat (4 * h) + bitNat b.toNat (4 * h + 1)
  let sb := bitNat b.toNat (4 * h + 2) + bitNat b.toNat (4 * h + 3)
  (((sa : Int) - (sb : Int)) % (q : Int)).toNat

/-- `cbd2(B)`: byte m gives coefficient 2m from its low nibble and 2m+1 from its high nibble (44_samplers.md R220). -/
def cbd2 (B : List Byte) : List Nat := B.flatMap fun b => [cbdNibble b 0, cbdNibble b 1]

/-- Take a candidate below q, while fewer than 256 are accepted (44_samplers.md R230). -/
def accept (f : List Nat) (d : Nat) : List Nat := if d < q ∧ f.length < 256 then f ++ [d] else f

/-- The loop of `parse`: two 12-bit little-endian candidates per three bytes (44_samplers.md R230). -/
def parseLoop : List Byte → List Nat → List Nat
  | b0 :: b1 :: b2 :: S, f =>
    let d1 := b0.toNat + 256 * (b1.toNat % 16)
    let d2 := b1.toNat / 16 + 16 * b2.toNat
    if f.length < 256 then parseLoop S (accept (accept f d1) d2) else f
  | _, f => f

/-- `parse(S)` on a materialised stretch of the stream: nothing while it has not accepted 256 candidates
(44_samplers.md R230, R234). -/
def parse (S : List Byte) : Option (List Nat) :=
  let f := parseLoop S []
  if f.length = 256 then some f else none

/-- `SampleNTT(ρ, b32, b33)` on the first `w` windows of 168 bytes of the stream (44_samplers.md R231, R234). Every result
it gives is the result for the whole stream, since later windows are not looked at once 256 are accepted. -/
def sampleNtt (w : Nat) (rhoSeed : List Byte) (b32 b33 : Byte) : Option (List Nat) :=
  parse (xofBytes rhoSeed b32 b33 (168 * w))

/-- CBD2 (44_samplers.md R221). -/
def execCbd2 (dst src : Word) (s : State) : Host.Outcome State Fault Refusal :=
  runCommand (.cbd2 dst src) (fun s => some (s.setPreg dst.toNat (Poly.ofCoeffs (cbd2 (s.readBytes src.toNat 128))))) s

/-- SAMPLENTT (44_samplers.md R232). While the loop has not stopped, the command stays pending (R233). -/
def execSamplentt (dst rhoAt idx : Word) (s : State) : Host.Outcome State Fault Refusal :=
  runCommand (.samplentt dst rhoAt idx)
    (fun s =>
      match sampleNtt s.windows (s.readBytes rhoAt.toNat 32) (idxFirst idx) (idxSecond idx) with
      | some f => some (s.setPreg dst.toNat (Poly.ofCoeffs f))
      | none => none) s

end Sys2Proof.Machine
end

