-- ==== Sys2Proof/Machine/Kem.lean ====
section
/-! DEFINITION. KeyGen, Encaps and Decaps with implicit rejection, and the commands KEYGEN, ENCAPS and DECAPS
(46_kem.md). The first argument `w` of each function is how many XOF windows its rejection loops may look at
(44_samplers.md R234); the result does not depend on it. -/

namespace Sys2Proof.Machine

/-- `B[a:b)` (00_scope.md R10). -/
def slice (B : List Byte) (a b : Nat) : List Byte := (B.drop a).take (b - a)

/-- All of a list of partial results, or nothing. -/
def allSome {α : Type} : List (Option α) → Option (List α)
  | [] => some []
  | none :: _ => none
  | some a :: xs =>
    match allSome xs with
    | some l => some (a :: l)
    | none => none

/-- `GenMatrix(ρ)`: Â[i][j] = SampleNTT(ρ, j, i) (46_kem.md R291). -/
def genMatrix (w : Nat) (rhoSeed : List Byte) : Option (List (List (List Nat))) :=
  allSome ((List.range 3).map fun i =>
    allSome ((List.range 3).map fun j => sampleNtt w rhoSeed (BitVec.ofNat 8 j) (BitVec.ofNat 8 i)))

/-- Row i of the transpose: [Â[0][i], Â[1][i], Â[2][i]] (46_kem.md R291, R295). -/
def transposeRow (A : List (List (List Nat))) (i : Nat) : List (List Nat) := A.map fun row => row.getD i []

/-- `Noise(seed, N)` (46_kem.md R292). -/
def noise (seed : List Byte) (N : Nat) : List Nat := cbd2 (prfBytes seed (BitVec.ofNat 8 N))

/-- `Dot(â, b̂)` (46_kem.md R293). -/
def dot (a b : List (List Nat)) : List Nat :=
  polyAdd (basemul (a.getD 0 []) (b.getD 0 []))
    (polyAdd (basemul (a.getD 1 []) (b.getD 1 [])) (basemul (a.getD 2 []) (b.getD 2 [])))

/-- The k = 3 polynomials that stand one after the other in a byte string, `n` bytes each (46_kem.md R290). -/
def polyVec (decode : List Byte → List Nat) (n : Nat) (B : List Byte) : List (List Nat) :=
  (List.range 3).map fun i => decode (slice B (n * i) (n * i + n))

/-- `KeyGen(d, z) → (pk, sk)` (46_kem.md R294). -/
def keyGen (w : Nat) (d z : List Byte) : Option (List Byte × List Byte) :=
  let X := hashG (d ++ [0x03])
  let rhoSeed := slice X 0 32
  let sigma := slice X 32 64
  match genMatrix w rhoSeed with
  | none => none
  | some A =>
    let sHat := (List.range 3).map fun i => ntt (noise sigma i)
    let eHat := (List.range 3).map fun i => ntt (noise sigma (3 + i))
    let tHat := (List.range 3).map fun i => polyAdd (dot (A.getD i []) sHat) (eHat.getD i [])
    let pk := tHat.flatMap enc12 ++ rhoSeed
    let sk := sHat.flatMap enc12 ++ pk ++ hashH pk ++ z
    some (pk, sk)

/-- `Encrypt(pk, m, r) → ct` (46_kem.md R295). -/
def encrypt (w : Nat) (pk m r : List Byte) : Option (List Byte) :=
  let tHat := polyVec dec12 384 pk
  match genMatrix w (slice pk 1152 1184) with
  | none => none
  | some A =>
    let rHat := (List.range 3).map fun i => ntt (noise r i)
    let e1 := (List.range 3).map fun i => noise r (3 + i)
    let e2 := noise r 6
    let u := (List.range 3).map fun i => polyAdd (intt (dot (transposeRow A i) rHat)) (e1.getD i [])
    let v := polyAdd (polyAdd (intt (dot tHat rHat)) e2) (encodeMsg m)
    some (u.flatMap comp10 ++ comp4 v)

/-- `Encaps(pk, m) → (ct, K)` (46_kem.md R296). -/
def encapsulate (w : Nat) (pk m : List Byte) : Option (List Byte × List Byte) :=
  let X := hashG (m ++ hashH pk)
  match encrypt w pk m (slice X 32 64) with
  | none => none
  | some ct => some (ct, slice X 0 32)

/-- `Decrypt(sk, ct) → m'` (46_kem.md R297). -/
def decrypt (sk ct : List Byte) : List Byte :=
  let sHat := polyVec dec12 384 sk
  let u := polyVec decomp10 320 ct
  let v := decomp4 (slice ct 960 1088)
  decodeMsg (polySub (intt (dot sHat (u.map ntt))) v)

/-- `RejectHash(X)` (46_kem.md R298). -/
def rejectHash : RejectHash → List Byte → List Byte
  | .sha3_256, X => hashH X
  | .shake256_32, X => sponge X 136 0x1F 32

/-- `Decaps(sk, ct) → K`, with implicit rejection (46_kem.md R298). -/
def decapsulate (rh : RejectHash) (w : Nat) (sk ct : List Byte) : Option (List Byte) :=
  let pk := slice sk 1152 2336
  let h := slice sk 2336 2368
  let z := slice sk 2368 2400
  let m' := decrypt sk ct
  let X := hashG (m' ++ h)
  match encrypt w pk m' (slice X 32 64) with
  | none => none
  | some ct' => some (if ct' = ct then slice X 0 32 else rejectHash rh (z ++ ct))

/-- The input contract of `Encrypt`: every 12-bit value of pk[0:1152] is below q (46_kem.md R295). -/
def pkCanonical (pk : List Byte) : Bool := (polyVec dec12 384 pk).all canonical

/-- The input contract of `Decaps`: every 12-bit value of sk[0:1152] and of sk[1152:2304] is below q
(46_kem.md R302). -/
def skCanonical (sk : List Byte) : Bool :=
  (polyVec dec12 384 sk).all canonical && pkCanonical (slice sk 1152 2336)

/-- The P registers after a KEM command: every cell is `any` (46_kem.md R299), from the present draw. -/
def State.afterKem (s : State) : State := s.forgetPregs.spend

/-- KEYGEN (46_kem.md R300). -/
def execKeygen (d z pk sk : Word) (s : State) : Host.Outcome State Fault Refusal :=
  runCommand (.keygen d z pk sk)
    (fun s =>
      match keyGen s.windows (s.readBytes d.toNat 32) (s.readBytes z.toNat 32) with
      | none => none
      | some (PK, SK) => some ((s.writeBytes pk.toNat PK).writeBytes sk.toNat SK).afterKem) s

/-- ENCAPS (46_kem.md R301). With a pk outside the contract both outputs hold `any` bytes (decision D14). -/
def execEncaps (pk m ct key : Word) (s : State) : Host.Outcome State Fault Refusal :=
  runCommand (.encaps pk m ct key)
    (fun s =>
      match encapsulate s.windows (s.readBytes pk.toNat 1184) (s.readBytes m.toNat 32) with
      | none => none
      | some (CT, KK) =>
        if pkCanonical (s.readBytes pk.toNat 1184) then
          some ((s.writeBytes ct.toNat CT).writeBytes key.toNat KK).afterKem
        else
          some ((s.writeBytes ct.toNat (freeBytes s.draws ct.toNat 1088)).writeBytes key.toNat
            (freeBytes s.draws key.toNat 32)).afterKem) s

/-- DECAPS (46_kem.md R302). With an sk outside the contract the output holds `any` bytes (decision D14). -/
def execDecaps (sk ct key : Word) (s : State) : Host.Outcome State Fault Refusal :=
  runCommand (.decaps sk ct key)
    (fun s =>
      match decapsulate s.params.rejectHash s.windows (s.readBytes sk.toNat 2400) (s.readBytes ct.toNat 1088) with
      | none => none
      | some KK =>
        if skCanonical (s.readBytes sk.toNat 2400) then some (s.writeBytes key.toNat KK).afterKem
        else some (s.writeBytes key.toNat (freeBytes s.draws key.toNat 32)).afterKem) s

end Sys2Proof.Machine
end

