-- ==== Sys2Proof/Machine/System.lean ====
section
/-! DEFINITION. The system command NOP (47_system.md). -/

namespace Sys2Proof.Machine

/-- NOP: completes and writes nothing besides STATUS (47_system.md R330). -/
def execNop (s : State) : Host.Outcome State Fault Refusal := runCommand .nop (fun s => some s) s

end Sys2Proof.Machine
end

