-- ==== Sys2Proof/Machine/Dispatch.lean ====
section
/-! DEFINITION. The completion step of a decoded command: one arm per constructor (10_state.md R33). -/

namespace Sys2Proof.Machine

def exec (i : Instr) (s : State) : Host.Outcome State Fault Refusal :=
  match i with
  | .nop => Sys2Proof.Machine.execNop s
  | .keccakf src dst => Sys2Proof.Machine.execKeccakf src dst s
  | .sha3_256 src len dst => Sys2Proof.Machine.execSha3_256 src len dst s
  | .sha3_512 src len dst => Sys2Proof.Machine.execSha3_512 src len dst s
  | .prf seed nonce dst => Sys2Proof.Machine.execPrf seed nonce dst s
  | .xof rho idx dst len => Sys2Proof.Machine.execXof rho idx dst len s
  | .mulmod a b => Sys2Proof.Machine.execMulmod a b s
  | .padd dst a b => Sys2Proof.Machine.execPadd dst a b s
  | .psub dst a b => Sys2Proof.Machine.execPsub dst a b s
  | .ntt dst src => Sys2Proof.Machine.execNtt dst src s
  | .intt dst src => Sys2Proof.Machine.execIntt dst src s
  | .basemul dst a b => Sys2Proof.Machine.execBasemul dst a b s
  | .cbd2 dst src => Sys2Proof.Machine.execCbd2 dst src s
  | .samplentt dst rho idx => Sys2Proof.Machine.execSamplentt dst rho idx s
  | .enc12 src dst => Sys2Proof.Machine.execEnc12 src dst s
  | .dec12 dst src => Sys2Proof.Machine.execDec12 dst src s
  | .comp10 src dst => Sys2Proof.Machine.execComp10 src dst s
  | .decomp10 dst src => Sys2Proof.Machine.execDecomp10 dst src s
  | .comp4 src dst => Sys2Proof.Machine.execComp4 src dst s
  | .decomp4 dst src => Sys2Proof.Machine.execDecomp4 dst src s
  | .tomsg src dst => Sys2Proof.Machine.execTomsg src dst s
  | .frommsg dst src => Sys2Proof.Machine.execFrommsg dst src s
  | .keygen d z pk sk => Sys2Proof.Machine.execKeygen d z pk sk s
  | .encaps pk m ct key => Sys2Proof.Machine.execEncaps pk m ct key s
  | .decaps sk ct key => Sys2Proof.Machine.execDecaps sk ct key s

end Sys2Proof.Machine
end

