-- ==== Sys2Proof/Machine/HostBus.lean ====
section
/-! DEFINITION. What the host and the platform do to the core: register and MEM-window accesses (10_state.md R22 to R31,
20_memory.md R60 to R62), command issue (R27, R33), races (R70), soft and power-on reset (70_reset_and_hazards.md R380,
R382), and the host pseudo-operations (30_encoding.md R99). -/

namespace Sys2Proof.Machine

/-- Where a host access goes. -/
inductive Target where
  /-- A register-block offset, 0x000 to 0x1FFC. -/
  | reg (offset : Nat)
  /-- A MEM address. -/
  | mem (addr : Nat)
deriving DecidableEq, Repr

/-- The target of an access of `width` bytes at a bus address, or why it has no defined response
(20_memory.md R60 to R62). -/
def target (p : Params) (addr width : Nat) : Except Refusal Target :=
  if addr < p.base then .error .belowBase
  else if addr - p.base < 0x2000 then
    if width = 4 ∧ (addr - p.base) % 4 = 0 then .ok (.reg (addr - p.base)) else .error .registerAccess
  else if (width = 1 ∨ width = 2 ∨ width = 4) ∧ (addr - p.base - 0x2000) % width = 0 then
    if addr - p.base - 0x2000 + width ≤ p.memSize then .ok (.mem (addr - p.base - 0x2000)) else .error .beyondWindow
  else .error .memAccess

/-! ### Registers -/

/-- What a read of a register offset returns (10_state.md R22, R27, R31). -/
def State.readReg (s : State) (offset : Nat) : Word :=
  if offset = 0x000 then s.ctrlWord
  else if offset = 0x004 then s.statusWord
  else if offset = 0x010 then s.args.a0
  else if offset = 0x014 then s.args.a1
  else if offset = 0x018 then s.args.a2
  else if offset = 0x01C then s.args.a3
  else if offset = 0x020 then s.resultWord
  else 0

/-- A write to CMD: issue, or OVERRUN while BUSY (10_state.md R27, R32, R33). -/
def State.writeCmd (v : Word) (s : State) : State :=
  match s.pending with
  | some _ => { s with overrun := true }
  | none =>
    { s with
      done := false
      err := false
      errcode := 0
      pending := some { cmd := ⟨v, s.args⟩, races := [], effort := 0 } }

/-- Soft reset (70_reset_and_hazards.md R382): a pending command is aborted and its output regions become `any`; the
registers go to their reset values; P becomes `any`. -/
def State.softReset (s : State) : State :=
  { (s.scramble s.pendingRegions.2).forgetPregs.spend with
    ie := false
    done := false
    err := false
    overrun := false
    errcode := 0
    args := Args.zero
    result := 0
    pending := none }

/-- A write of `v` to CTRL: SRST = 1 resets, whatever the other bits (10_state.md R23, 70_reset_and_hazards.md R382). -/
def State.writeCtrl (v : Word) (s : State) : State := if v.getLsbD 0 then s.softReset else s.writeIe v

/-- A write of `v` to a register offset. Reserved offsets and the read-only RESULT ignore it (10_state.md R31, log 11). -/
def State.writeReg (offset : Nat) (v : Word) (s : State) : State :=
  if offset = 0x000 then s.writeCtrl v
  else if offset = 0x004 then s.writeStatus v
  else if offset = 0x008 then s.writeCmd v
  else if offset = 0x010 then { s with args := { s.args with a0 := v } }
  else if offset = 0x014 then { s with args := { s.args with a1 := v } }
  else if offset = 0x018 then { s with args := { s.args with a2 := v } }
  else if offset = 0x01C then { s with args := { s.args with a3 := v } }
  else s

/-! ### MEM window -/

/-- Whether a MEM byte is in an output region of the pending command (20_memory.md R70). -/
def State.inOutputs (s : State) (a : Nat) : Bool := s.pendingRegions.2.any (·.has a)

/-- Whether a MEM byte is in any region of the pending command (20_memory.md R70). -/
def State.inRegions (s : State) (a : Nat) : Bool := s.pendingRegions.1.any (·.has a) || s.inOutputs a

/-- The byte a host read returns: `any` in an output region of a running command, else the byte of MEM
(20_memory.md R70). -/
def State.hostByte (s : State) (a : Nat) : Byte := if s.inOutputs a then Config.freeByte s.draws a else s.readByte a

/-- A host read of `width` MEM bytes, little-endian (20_memory.md R60). A read that returns an `any` uses a draw. -/
def State.hostReadMem (a width : Nat) (s : State) : State :=
  let bytes := (List.range width).map fun k => s.hostByte (a + k)
  let raced := (List.range width).any fun k => s.inOutputs (a + k)
  { s with
    readData := some (BitVec.ofNat 32 (leNat bytes))
    draws := if raced then s.draws + 1 else s.draws }

/-- Note a raced address in the pending command. -/
def State.noteRace (a : Nat) (s : State) : State :=
  { s with pending := s.pending.map fun p => { p with races := a :: p.races } }

/-- A host write of one MEM byte. In a region of the running command it is a race: the byte holds `any`, and the command
remembers it (20_memory.md R70, log 8). -/
def State.hostWriteByte (a : Nat) (v : Byte) (s : State) : State :=
  if s.inRegions a then (s.writeByte a (Config.freeByte s.draws a)).spend.noteRace a else s.writeByte a v

/-- A host write of the bytes of a data word, lowest address first (20_memory.md R60). -/
def State.hostWriteMem : Nat → List Byte → State → State
  | _, [], s => s
  | a, b :: bs, s => State.hostWriteMem (a + 1) bs (s.hostWriteByte a b)

/-! ### Events -/

/-- One host access (20_memory.md R68: one indivisible step). -/
def hostStep : HostAccess → State → Host.Outcome State Fault Refusal
  | .read addr width, s =>
    match target s.params addr width with
    | .error r => .refused r
    | .ok (.reg offset) => .next { s with readData := some (s.readReg offset) }
    | .ok (.mem a) => .next (s.hostReadMem a width)
  | .write addr width v, s =>
    match target s.params addr width with
    | .error r => .refused r
    | .ok (.reg offset) => .next (s.writeReg offset v)
    | .ok (.mem a) => .next (s.hostWriteMem a (leBytes width v.toNat))

/-- Power-on reset applied to a running core (70_reset_and_hazards.md R380). The parameters, the model's read data and
the events to come stay; MEM and P take a fresh draw. -/
def State.powerOn (s : State) : State :=
  { State.reset with
    params := s.params
    memDraw := s.draws
    pregDraw := s.draws
    draws := s.draws + 1
    readData := s.readData
    agenda := s.agenda }

/-- One turn of the host's `wait` loop (30_encoding.md R99): a read of STATUS, after which the host goes on where DONE,
bit 1, is 1, and waits on where it is 0. The engine has its turn before the next read, as the fairness of decision D29
lets `wait` end (log 16). -/
def State.pollDone (s : State) : State :=
  let v := s.readReg 0x004
  { s with
    readData := some v
    agenda := if v.getLsbD 1 then s.agenda else .engine :: .wait :: s.agenda }

/-! ### Host pseudo-operations (30_encoding.md R99) -/

/-- A 32-bit register write at an offset from BASE. -/
def regWrite (p : Params) (offset : Nat) (v : Word) : Event := .host (.write (p.base + offset) 4 v)

/-- `issue`: write ARG0 to ARG3, then CMD. -/
def issueEvents (p : Params) (i : Instr) : List Event :=
  let c := encode i
  [regWrite p 0x010 c.args.a0, regWrite p 0x014 c.args.a1, regWrite p 0x018 c.args.a2, regWrite p 0x01C c.args.a3,
   regWrite p 0x008 c.word]

/-- `wait`: read STATUS until DONE = 1. -/
def waitEvents : List Event := [.wait]

/-- `ack`: write STATUS ← 0x0000_000E. -/
def ackEvents (p : Params) : List Event := [regWrite p 0x004 0x0000000E]

/-- `store a, B`: MEM-window byte writes. -/
def storeEvents (p : Params) (a : Nat) (B : List Byte) : List Event :=
  (List.range B.length).map fun k => .host (.write (p.base + 0x2000 + a + k) 1 ((B.getD k 0).setWidth 32))

/-- `load a, n`: MEM-window byte reads. -/
def loadEvents (p : Params) (a n : Nat) : List Event :=
  (List.range n).map fun k => .host (.read (p.base + 0x2000 + a + k) 1)

end Sys2Proof.Machine
end

