-- ==== Sys2Proof/Machine/Engine.lean ====
section
/-! DEFINITION. The engine's turn: fetch the pending command, decode it, complete it (10_state.md R33). -/

namespace Sys2Proof.Machine

/-- The engine's turn. With no command pending it does nothing (60_exceptions.md R361). An illegal command word completes
with ERRCODE 1 (30_encoding.md R96); a legal one runs. -/
def engineStep (s : State) : Host.Outcome State Fault Refusal :=
  match s.fetch with
  | none => .next s
  | some c =>
    match decodeCommand c with
    | .error _ => .next (s.failCommand .illegalCmd [])
    | .ok i => exec i s

/-- One event of the agenda. -/
def runEvent (e : Event) (s : State) : Host.Outcome State Fault Refusal :=
  match e with
  | .host access => hostStep access s
  | .engine => engineStep s
  | .wait => .next s.pollDone
  | .powerOn => .next s.powerOn

/-- The command that `w`, an instruction's bits of which `nbits` are given and the rest are 0, stands for. -/
def tableCommand (nbits w : Nat) : Command :=
  match Command.ofBytes (tableWordBytes nbits w) with
  | .ok (c, _) => c
  | .error _ => ⟨0, Args.zero⟩

end Sys2Proof.Machine
end

