-- ==== Sys2Proof/Machine/Step.lean ====
section
/-! DEFINITION. One step of the core: the next event of the agenda, or the engine's turn where none is left. -/

namespace Sys2Proof.Machine

/-- One step. Events are taken one at a time in agenda order (20_memory.md R71, 60_exceptions.md R354); with no event
left the engine takes its turn, so that a pending completion is eventually taken (decision D29, log 3). -/
def step (s : State) : Host.Outcome State Fault Refusal :=
  match s.agenda with
  | [] => engineStep s
  | e :: rest => runEvent e { s with agenda := rest }

/-- The state in which the very next step runs the instruction `w`: its command is pending, with no event before the
engine's turn (log 16). -/
def State.withFetchWord (s : State) (nbits w : Nat) : State :=
  { s with pending := some { cmd := tableCommand nbits w, races := [], effort := 0 }, agenda := [] }

end Sys2Proof.Machine
end

