-- ==== Sys2Proof/WellFormed.lean ====
section
/-! DEFINITION. When the operands of a command meet their kinds: each condition written out for each command from the
opcode map (30_encoding.md R91, R94) and the region rules (20_memory.md R64, R65). The machine's own argument check
is `Machine.check` (60_exceptions.md R343); Laws/PerInstr.lean proves that the two agree. -/

namespace Sys2Proof

/-- 20_memory.md R64: a region of `n` bytes at `a` lies in MEM, on unbounded integers; an empty one always does. -/
abbrev inRange (p : Params) (a n : Nat) : Prop := n = 0 ∨ a + n ≤ p.memSize

/-- 20_memory.md R65: two regions share no byte. -/
abbrev apart (a n b m : Nat) : Prop := n = 0 ∨ m = 0 ∨ b + m ≤ a ∨ a + n ≤ b

/-- A `preg` operand names a register (30_encoding.md R91). -/
abbrev isPreg (p : Params) (r : Word) : Prop := r.toNat < p.npoly

/-- A command with operands that pass every argument check. -/
abbrev Instr.wellFormed (p : Params) : Instr → Prop
  | .nop => True
  | .keccakf src dst =>
      inRange p src.toNat 200 ∧ inRange p dst.toNat 200 ∧ apart dst.toNat 200 src.toNat 200
  | .sha3_256 src len dst =>
      inRange p src.toNat len.toNat ∧ inRange p dst.toNat 32 ∧ apart dst.toNat 32 src.toNat len.toNat
  | .sha3_512 src len dst =>
      (len.toNat = 33 ∨ len.toNat = 64) ∧ inRange p src.toNat len.toNat ∧ inRange p dst.toNat 64 ∧
        apart dst.toNat 64 src.toNat len.toNat
  | .prf seed nonce dst =>
      nonce.toNat < 2 ^ 8 ∧ inRange p seed.toNat 32 ∧ inRange p dst.toNat 128 ∧
        apart dst.toNat 128 seed.toNat 32
  | .xof rho idx dst len =>
      idx.toNat < 2 ^ 16 ∧ inRange p rho.toNat 32 ∧ inRange p dst.toNat len.toNat ∧
        apart dst.toNat len.toNat rho.toNat 32
  | .mulmod _ _ => True
  | .padd dst a b => isPreg p dst ∧ isPreg p a ∧ isPreg p b
  | .psub dst a b => isPreg p dst ∧ isPreg p a ∧ isPreg p b
  | .ntt dst src => isPreg p dst ∧ isPreg p src
  | .intt dst src => isPreg p dst ∧ isPreg p src
  | .basemul dst a b => isPreg p dst ∧ isPreg p a ∧ isPreg p b
  | .cbd2 dst src => isPreg p dst ∧ inRange p src.toNat 128
  | .samplentt dst rho idx => idx.toNat < 2 ^ 16 ∧ isPreg p dst ∧ inRange p rho.toNat 32
  | .enc12 src dst => isPreg p src ∧ inRange p dst.toNat 384
  | .dec12 dst src => isPreg p dst ∧ inRange p src.toNat 384
  | .comp10 src dst => isPreg p src ∧ inRange p dst.toNat 320
  | .decomp10 dst src => isPreg p dst ∧ inRange p src.toNat 320
  | .comp4 src dst => isPreg p src ∧ inRange p dst.toNat 128
  | .decomp4 dst src => isPreg p dst ∧ inRange p src.toNat 128
  | .tomsg src dst => isPreg p src ∧ inRange p dst.toNat 32
  | .frommsg dst src => isPreg p dst ∧ inRange p src.toNat 32
  | .keygen d z pk sk =>
      inRange p d.toNat 32 ∧ inRange p z.toNat 32 ∧ inRange p pk.toNat 1184 ∧ inRange p sk.toNat 2400 ∧
        apart pk.toNat 1184 d.toNat 32 ∧ apart pk.toNat 1184 z.toNat 32 ∧
        apart pk.toNat 1184 sk.toNat 2400 ∧
        apart sk.toNat 2400 d.toNat 32 ∧ apart sk.toNat 2400 z.toNat 32
  | .encaps pk m ct key =>
      inRange p pk.toNat 1184 ∧ inRange p m.toNat 32 ∧ inRange p ct.toNat 1088 ∧ inRange p key.toNat 32 ∧
        apart ct.toNat 1088 pk.toNat 1184 ∧ apart ct.toNat 1088 m.toNat 32 ∧
        apart ct.toNat 1088 key.toNat 32 ∧
        apart key.toNat 32 pk.toNat 1184 ∧ apart key.toNat 32 m.toNat 32
  | .decaps sk ct key =>
      inRange p sk.toNat 2400 ∧ inRange p ct.toNat 1088 ∧ inRange p key.toNat 32 ∧
        apart key.toNat 32 sk.toNat 2400 ∧ apart key.toNat 32 ct.toNat 1088

end Sys2Proof
end

