-- ==== Sys2Proof/Safety.lean ====
section
/-! DEFINITION. What counts as a sound state of the core, and the vocabulary in which claims about it are made: which bytes
and registers an event changed, which host accesses have a defined response, the error code a command ends with, and
the generators and laws that the spec gives beside its tables and transforms. -/

namespace Sys2Proof.Machine

/-! ### The invariant -/

/-- What every state of a run meets, whatever the events: the parameters are legal (00_scope.md R8); MEM and P are in
canonical form and inside the hardware; ERRCODE is not 0 exactly when ERR is 1, and no reserved code occurs
(10_state.md R25, 60_exceptions.md R341); a running command has DONE = 0 and ERR = 0 (10_state.md R33); every noted
race is a MEM byte of the running command (20_memory.md R70); the draws in use are older than the next one (log 4). -/
structure State.Inv (s : State) : Prop where
  legal : s.params.legal
  memWf : Memory.wf s.mem
  memInside : ∀ c ∈ s.mem, c.1 < s.params.memSize
  pregsWf : Sparse.wf s.pregs
  pregsInside : ∀ c ∈ s.pregs, c.1 < s.params.npoly
  errcodeIffErr : s.errcode = 0 ↔ s.err = false
  errcodeKnown : s.errcode.toNat ≤ 6
  busyQuiet : s.busy = true → s.done = false ∧ s.err = false
  racesInside : ∀ a ∈ s.races, s.inRegions a = true ∧ a < s.params.memSize
  drawsOld : s.memDraw < s.draws ∧ s.pregDraw < s.draws

/-! ### What an event changed -/

/-- The bytes of `B` stand in MEM from `a` on, and every other byte is as before. -/
def MemBecomes (s t : State) (a : Nat) (B : List Byte) : Prop :=
  ∀ x, t.readByte x = if a ≤ x ∧ x < a + B.length then B.getD (x - a) 0 else s.readByte x

/-- `n` bytes of `A` stand from `a` on and `m` bytes of `B` from `b` on, and every other byte is as before. -/
def MemBecomesTwo (s t : State) (a n : Nat) (A : List Byte) (b m : Nat) (B : List Byte) : Prop :=
  ∀ x, t.readByte x =
    if a ≤ x ∧ x < a + n then A.getD (x - a) 0
    else if b ≤ x ∧ x < b + m then B.getD (x - b) 0
    else s.readByte x

/-- The polynomial register `d` holds the coefficients `f`, and every other register is as before. -/
def PregBecomes (s t : State) (d : Word) (f : List Nat) : Prop :=
  (t.preg d.toNat).coeffs = f ∧ ∀ r, r ≠ d.toNat → t.preg r = s.preg r

/-- The polynomial register `d` holds a draw of `any`, and every other register is as before. -/
def PregFree (s t : State) (d : Word) : Prop :=
  t.preg d.toNat = freePoly s.draws d.toNat ∧ ∀ r, r ≠ d.toNat → t.preg r = s.preg r

/-- What a raced command leaves in P and RESULT: `any` where it writes, the rest as before (20_memory.md R70). -/
def DestFree (i : Instr) (s t : State) : Prop :=
  match dest i with
  | .nothing => t.result = s.result ∧ ∀ r, t.preg r = s.preg r
  | .preg d => t.result = s.result ∧ PregFree s t d
  | .allPregs => t.result = s.result ∧ ∀ r, t.preg r = freePoly s.draws r
  | .result => t.result = Config.freeResult s.draws ∧ ∀ r, t.preg r = s.preg r

/-- The value of a data word, byte `i` weighted `2^(8i)` (20_memory.md R60). -/
def littleEndian (w : Nat) (byte : Nat → Byte) : Nat := ∑ i ∈ Finset.range w, (byte i).toNat * 2 ^ (8 * i)

/-! ### Host accesses -/

/-- The bus address of an access. -/
def HostAccess.addr : HostAccess → Nat
  | .read a _ => a
  | .write a _ _ => a

/-- The width of an access in bytes. -/
def HostAccess.width : HostAccess → Nat
  | .read _ w => w
  | .write _ w _ => w

/-- The accesses at or above BASE that have a defined response (20_memory.md R60 to R62): 32-bit aligned in the register
block, or 1, 2 or 4 bytes naturally aligned and wholly inside the MEM window. -/
def HostAccess.defined (p : Params) (h : HostAccess) : Prop :=
  let o := h.addr - p.base
  (o < 0x2000 ∧ h.width = 4 ∧ o % 4 = 0) ∨
    (0x2000 ≤ o ∧ (h.width = 1 ∨ h.width = 2 ∨ h.width = 4) ∧ o % h.width = 0 ∧ o + h.width ≤ 0x2000 + p.memSize)

/-! ### Commands -/

/-- The opcode map: each row's command word, and the command it stands for with its operands taken from the ARG snapshot
(30_encoding.md R94). -/
def opcodeMap : List (Nat × (Args → Instr)) :=
  [(0x00, fun _ => .nop),
   (0x01, fun a => .keccakf a.a0 a.a1),
   (0x02, fun a => .sha3_256 a.a0 a.a1 a.a2),
   (0x03, fun a => .sha3_512 a.a0 a.a1 a.a2),
   (0x04, fun a => .prf a.a0 a.a1 a.a2),
   (0x05, fun a => .xof a.a0 a.a1 a.a2 a.a3),
   (0x10, fun a => .mulmod a.a0 a.a1),
   (0x11, fun a => .padd a.a0 a.a1 a.a2),
   (0x12, fun a => .psub a.a0 a.a1 a.a2),
   (0x20, fun a => .ntt a.a0 a.a1),
   (0x21, fun a => .intt a.a0 a.a1),
   (0x22, fun a => .basemul a.a0 a.a1 a.a2),
   (0x30, fun a => .cbd2 a.a0 a.a1),
   (0x31, fun a => .samplentt a.a0 a.a1 a.a2),
   (0x40, fun a => .enc12 a.a0 a.a1),
   (0x41, fun a => .dec12 a.a0 a.a1),
   (0x42, fun a => .comp10 a.a0 a.a1),
   (0x43, fun a => .decomp10 a.a0 a.a1),
   (0x44, fun a => .comp4 a.a0 a.a1),
   (0x45, fun a => .decomp4 a.a0 a.a1),
   (0x46, fun a => .tomsg a.a0 a.a1),
   (0x47, fun a => .frommsg a.a0 a.a1),
   (0x50, fun a => .keygen a.a0 a.a1 a.a2 a.a3),
   (0x51, fun a => .encaps a.a0 a.a1 a.a2 a.a3),
   (0x52, fun a => .decaps a.a0 a.a1 a.a2)]

/-- The reserved command words: the OPCODE ranges of 30_encoding.md R96, and every word with a bit of 31:8 set. -/
def reservedWord (w : Nat) : Prop :=
  (0x06 ≤ w ∧ w ≤ 0x0F) ∨ (0x13 ≤ w ∧ w ≤ 0x1F) ∨ (0x23 ≤ w ∧ w ≤ 0x2F) ∨ (0x32 ≤ w ∧ w ≤ 0x3F) ∨
    (0x48 ≤ w ∧ w ≤ 0x4F) ∨ (0x53 ≤ w ∧ w ≤ 0xFF) ∨ 0x100 ≤ w

/-- The code a P-register command ends with: BAD_PREG, or 0 (60_exceptions.md R341, R343). -/
def pregCode (p : Params) (regs : List Word) : Nat := if regs.any fun r => p.npoly ≤ r.toNat then 3 else 0

/-- The code of a command with one P register and one region: BAD_PREG, then BAD_ADDR, or 0 (60_exceptions.md R343). -/
def pregAddrCode (p : Params) (r a : Word) (n : Nat) : Nat :=
  if p.npoly ≤ r.toNat then 3 else if p.memSize < a.toNat + n then 5 else 0

/-- The code the argument check gives a legal command, 0 where it passes: the checks of 60_exceptions.md R343 in their
order, with the codes of R341, written out for each command from 30_encoding.md R91 and R94. -/
def expectedCode (p : Params) : Instr → Nat
  | .nop => 0
  | .keccakf src dst =>
      if ¬(inRange p src.toNat 200 ∧ inRange p dst.toNat 200) then 5
      else if ¬apart dst.toNat 200 src.toNat 200 then 6 else 0
  | .sha3_256 src len dst =>
      if ¬(inRange p src.toNat len.toNat ∧ inRange p dst.toNat 32) then 5
      else if ¬apart dst.toNat 32 src.toNat len.toNat then 6 else 0
  | .sha3_512 src len dst =>
      if len.toNat ≠ 33 ∧ len.toNat ≠ 64 then 4
      else if ¬(inRange p src.toNat len.toNat ∧ inRange p dst.toNat 64) then 5
      else if ¬apart dst.toNat 64 src.toNat len.toNat then 6 else 0
  | .prf seed nonce dst =>
      if 2 ^ 8 ≤ nonce.toNat then 2
      else if ¬(inRange p seed.toNat 32 ∧ inRange p dst.toNat 128) then 5
      else if ¬apart dst.toNat 128 seed.toNat 32 then 6 else 0
  | .xof rho idx dst len =>
      if 2 ^ 16 ≤ idx.toNat then 2
      else if ¬(inRange p rho.toNat 32 ∧ inRange p dst.toNat len.toNat) then 5
      else if ¬apart dst.toNat len.toNat rho.toNat 32 then 6 else 0
  | .mulmod _ _ => 0
  | .padd dst a b => pregCode p [dst, a, b]
  | .psub dst a b => pregCode p [dst, a, b]
  | .ntt dst src => pregCode p [dst, src]
  | .intt dst src => pregCode p [dst, src]
  | .basemul dst a b => pregCode p [dst, a, b]
  | .cbd2 dst src => pregAddrCode p dst src 128
  | .samplentt dst rho idx => if 2 ^ 16 ≤ idx.toNat then 2 else pregAddrCode p dst rho 32
  | .enc12 src dst => pregAddrCode p src dst 384
  | .dec12 dst src => pregAddrCode p dst src 384
  | .comp10 src dst => pregAddrCode p src dst 320
  | .decomp10 dst src => pregAddrCode p dst src 320
  | .comp4 src dst => pregAddrCode p src dst 128
  | .decomp4 dst src => pregAddrCode p dst src 128
  | .tomsg src dst => pregAddrCode p src dst 32
  | .frommsg dst src => pregAddrCode p dst src 32
  | .keygen d z pk sk =>
      if ¬(inRange p d.toNat 32 ∧ inRange p z.toNat 32 ∧ inRange p pk.toNat 1184 ∧ inRange p sk.toNat 2400) then 5
      else if ¬(apart pk.toNat 1184 d.toNat 32 ∧ apart pk.toNat 1184 z.toNat 32 ∧ apart pk.toNat 1184 sk.toNat 2400 ∧
        apart sk.toNat 2400 d.toNat 32 ∧ apart sk.toNat 2400 z.toNat 32) then 6
      else 0
  | .encaps pk m ct key =>
      if ¬(inRange p pk.toNat 1184 ∧ inRange p m.toNat 32 ∧ inRange p ct.toNat 1088 ∧ inRange p key.toNat 32) then 5
      else if ¬(apart ct.toNat 1088 pk.toNat 1184 ∧ apart ct.toNat 1088 m.toNat 32 ∧ apart ct.toNat 1088 key.toNat 32 ∧
        apart key.toNat 32 pk.toNat 1184 ∧ apart key.toNat 32 m.toNat 32) then 6
      else 0
  | .decaps sk ct key =>
      if ¬(inRange p sk.toNat 2400 ∧ inRange p ct.toNat 1088 ∧ inRange p key.toNat 32) then 5
      else if ¬(apart key.toNat 32 sk.toNat 2400 ∧ apart key.toNat 32 ct.toNat 1088) then 6
      else 0

/-- The rejection loops of a command stop within the first `w` XOF windows (44_samplers.md R233). -/
def loopsStopped (w : Nat) (i : Instr) (s : State) : Bool :=
  match i with
  | .samplentt _ rhoAt idx => (sampleNtt w (s.readBytes rhoAt.toNat 32) (idxFirst idx) (idxSecond idx)).isSome
  | .keygen d z _ _ => (keyGen w (s.readBytes d.toNat 32) (s.readBytes z.toNat 32)).isSome
  | .encaps pk m _ _ => (encapsulate w (s.readBytes pk.toNat 1184) (s.readBytes m.toNat 32)).isSome
  | .decaps sk ct _ =>
      (decapsulate s.params.rejectHash w (s.readBytes sk.toNat 2400) (s.readBytes ct.toNat 1088)).isSome
  | _ => true

/-! ### Generators and laws -/

/-- The reversal of the 7-bit binary form of `i` (43_ntt.md R191). -/
def brv7 (i : Nat) : Nat := ∑ j ∈ Finset.range 7, bitNat i j * 2 ^ (6 - j)

/-- The walk that generates the rotation offsets: for t from `t` on, the lane (x, y) and its offset
(41_keccak_sponge.md R122). -/
def rotWalk : Nat → Nat → Nat → Nat → List (Nat × Nat × Nat)
  | 0, _, _, _ => []
  | n + 1, t, x, y => (x, y, (t + 1) * (t + 2) / 2 % 64) :: rotWalk n (t + 1) y ((2 * x + 3 * y) % 5)

/-- One shift of the LFSR of FIPS 202 Algorithm 5, bit 0 the output bit (41_keccak_sponge.md R125). -/
def lfsrShift (r : Nat) : Nat := if 2 * r < 256 then 2 * r else (2 * r - 256) ^^^ 0x71

/-- The LFSR after `t` shifts. -/
def lfsr : Nat → Nat
  | 0 => 1
  | t + 1 => lfsrShift (lfsr t)

/-- `a·b mod (X^256 + 1)`, coefficients reduced mod q (43_ntt.md R199). -/
def negacyclic (a b : List Nat) : List Nat :=
  (List.range 256).map fun k =>
    ((∑ i ∈ Finset.range 256,
        if i ≤ k then ((a.getD i 0 * b.getD (k - i) 0 : Nat) : Int)
        else -((a.getD i 0 * b.getD (256 + k - i) 0 : Nat) : Int)) % (q : Int)).toNat

/-- The 12-bit candidates of a byte stream, two per whole triple, in order (44_samplers.md R230). -/
def candidates (S : List Byte) : List Nat :=
  (List.range (S.length / 3)).flatMap fun k =>
    [(S.getD (3 * k) 0).toNat + 256 * ((S.getD (3 * k + 1) 0).toNat % 16),
     (S.getD (3 * k + 1) 0).toNat / 16 + 16 * (S.getD (3 * k + 2) 0).toNat]

/-- Bit `n` of a byte string read least significant bit first (20_memory.md R63). -/
def streamBit (B : List Byte) (n : Nat) : Bool := (B.getD (n / 8) 0).getLsbD (n % 8)

/-- The state bytes of a sponge of rate `r` after `n` permutations (41_keccak_sponge.md R128): each is preceded by the
next `r` bytes of the padded message xor-ed into the front of the state, and by none once they are used up. -/
def spongeState (P : List Byte) (r : Nat) : Nat → List Byte
  | 0 => List.replicate 200 0
  | n + 1 =>
    let S := spongeState P r n
    keccakFBytes ((List.range 200).map fun j => S.getD j 0 ^^^ (if j < r then P.getD (n * r + j) 0 else 0))

/-- The entries of Â: Â[i][j] = SampleNTT(ρ, j, i), each from the first `w` windows of its stream (46_kem.md R291). -/
def MatrixOf (w : Nat) (rhoSeed : List Byte) (A : Nat → Nat → List Nat) : Prop :=
  ∀ i j, i < 3 → j < 3 → sampleNtt w rhoSeed (BitVec.ofNat 8 j) (BitVec.ofNat 8 i) = some (A i j)

/-- The noise polynomial of a nonce (46_kem.md R292). -/
def noisePoly (seed : List Byte) (N : Nat) : List Nat := cbd2 (sponge (seed ++ [BitVec.ofNat 8 N]) 136 0x1F 128)

/-- Entry `c` of the sum of the three products a[j] ∘ b[j], mod q (46_kem.md R293). -/
def dotEntry (a b : Nat → List Nat) (c : Nat) : Nat := (∑ j ∈ Finset.range 3, (basemul (a j) (b j)).getD c 0) % q

/-- The sum of the three products, entry by entry (46_kem.md R293). -/
def dotPoly (a b : Nat → List Nat) : List Nat := (List.range 256).map (dotEntry a b)

/-- The equations of KeyGen (46_kem.md R294): sk holds ŝ[i] = NTT(Noise(σ, i)), and pk holds t̂ = Â·ŝ + ê with
ê[i] = NTT(Noise(σ, 3 + i)), where (ρ, σ) are the halves of G(d ∥ 3). -/
def KeyGenEquations (w : Nat) (d pk sk : List Byte) : Prop :=
  let X := hashG (d ++ [0x03])
  let sHat := fun j => ntt (noisePoly (X.drop 32) j)
  ∃ A, MatrixOf w (X.take 32) A ∧ ∀ i, i < 3 →
    byteDecode 12 (slice sk (384 * i) (384 * i + 384)) = sHat i ∧
    ∀ c, c < 256 → (byteDecode 12 (slice pk (384 * i) (384 * i + 384))).getD c 0 =
      (dotEntry (A i) sHat c + (ntt (noisePoly (X.drop 32) (3 + i))).getD c 0) % q

/-- The equations of Encrypt (46_kem.md R295): ct holds Compress10 of u = INTT(Âᵀ·r̂) + e1 and Compress4 of
v = INTT(t̂·r̂) + e2 + Encode_msg(m), with the nonces of R292. -/
def EncryptEquations (w : Nat) (pk m r ct : List Byte) : Prop :=
  let tHat := fun j => byteDecode 12 (slice pk (384 * j) (384 * j + 384))
  let rHat := fun j => ntt (noisePoly r j)
  ct.length = 1088 ∧ ∃ A, MatrixOf w (slice pk 1152 1184) A ∧
    (∀ i c, i < 3 → c < 256 → (byteDecode 10 (slice ct (320 * i) (320 * i + 320))).getD c 0 =
      compress 10 (((intt (dotPoly (fun j => A j i) rHat)).getD c 0 + (noisePoly r (3 + i)).getD c 0) % q)) ∧
    ∀ c, c < 256 → (byteDecode 4 (slice ct 960 1088)).getD c 0 =
      compress 4 (((intt (dotPoly tHat rHat)).getD c 0 + (noisePoly r 6).getD c 0 +
        1665 * (streamBit m c).toNat) % q)

/-- The equations of Decrypt (46_kem.md R297): bit c of m' is 1 exactly when entry c of w = INTT(ŝ·NTT(u)) − v is
between 833 and 2496 (45_codec.md R255). -/
def DecryptEquations (sk ct m : List Byte) : Prop :=
  let sHat := fun j => byteDecode 12 (slice sk (384 * j) (384 * j + 384))
  let u := fun j => (byteDecode 10 (slice ct (320 * j) (320 * j + 320))).map (decompress 10)
  m.length = 32 ∧ ∀ c, c < 256 →
    let x : Int := (((intt (dotPoly sHat (fun j => ntt (u j)))).getD c 0 : Int) -
      decompress 4 ((byteDecode 4 (slice ct 960 1088)).getD c 0)) % q
    (streamBit m c = true ↔ 833 ≤ x ∧ x ≤ 2496)

/-- The distance from x to x' on the circle mod q is at most `b` (45_codec.md R257). -/
def nearModQ (x x' b : Nat) : Prop := ((x' : Int) - x) % (q : Int) ≤ b ∨ ((x : Int) - x') % (q : Int) ≤ b

/-- The realisation of `mul_mod` that 42_modarith.md R172 gives: reciprocal, shift, multiply back, correct. -/
def barrett (x : Int) : Int :=
  let r : Int := x - x * 20159 / 2 ^ 26 * 3329
  let r' : Int := if r < 0 then r + 3329 else r
  if 3329 ≤ r' then r' - 3329 else r'

end Sys2Proof.Machine
end

