-- ==== Sys2Proof/Certificates/Slice0/Obligations.lean ====
section
/-! DEFINITION. The statements about the core. Each follows the rule of spec/ that its docstring names. An equation
`t = { s with … }` says that every field it does not name is unchanged: it is the frame. `log n` is
notes/assumptions/n.md. -/

open Sys2Proof Sys2Proof.Machine

/-! ### Encoding and decoding -/

/-- 30_encoding.md R94, R98: written-out command words, with ARG0 in bits 63:32, ARG1 in bits 95:64 and ARG2 in bits
127:96 of the byte image (log 15), decode to the commands they stand for; reserved words decode to nothing. -/
def Obligations.SpecWordsDecode : Prop :=
  decodeTableWord 32 0x00000000 = some .nop ∧
  decodeTableWord 96 0x00000000_00000001_00000020 = some (.ntt 1 0) ∧
  decodeTableWord 128 0x00001000_000004A0_00000000_00000002 = some (.sha3_256 0 1184 0x1000) ∧
  decodeTableWord 128 0x00000001_00000100_00000002_00000031 = some (.samplentt 2 0x100 1) ∧
  decodeTableWord 96 0x00000011_000006C1_00000010 = some (.mulmod 1729 17) ∧
  decodeTableWord 96 0x00000200_00000003_00000040 = some (.enc12 3 0x200) ∧
  decodeTableWord 160 0x00000D20_00000140_00000120_00000100_00000050 = some (.keygen 0x100 0x120 0x140 0xD20) ∧
  decodeTableWord 32 0x00000006 = none ∧ decodeTableWord 32 0x00000053 = none ∧ decodeTableWord 32 0x00000100 = none

/-- 30_encoding.md R92, R94, R99 with the byte image of log 15: every instruction, with every value of every operand,
decodes back from its encoding, whatever follows it. -/
def Obligations.EncodeThenDecodeIsIdentity : Prop :=
  ∀ (i : Instr) (rest : List Byte), decodeBytes (encodeBytes i ++ rest) = .ok (i, rest)

/-- 30_encoding.md R95: the whole command word selects the row; a word of no row is illegal. -/
def Obligations.OpcodeMapDecodesEveryWord : Prop :=
  ∀ c : Command,
    (∀ row ∈ opcodeMap, c.word.toNat = row.1 → decodeCommand c = .ok (row.2 c.args)) ∧
    ((∀ row ∈ opcodeMap, c.word.toNat ≠ row.1) → decodeCommand c = .error .illegalCmd)

/-- 30_encoding.md R96: a pending reserved word completes with ERR = 1 and ERRCODE = 1, and nothing else is written. -/
def Obligations.IllegalWordsCompleteWithCodeOne : Prop :=
  ∀ (s : State) (c : Command), s.Inv → s.fetch = some c → reservedWord c.word.toNat →
    engineStep s = .next { s with pending := none, done := true, err := true, errcode := 1 }

/-! ### Steps -/

/-- 10_state.md R33: an engine turn is `exec` of the pending decoded command, and nothing while none is pending. A step
takes the engine's turn when the agenda says so or is empty (log 2, log 3), and `withFetchWord` puts a decoded word
where the next step runs it (log 16). -/
def Obligations.StepRunsTheDecodedCommand : Prop :=
  (∀ (s : State) (c : Command) (i : Instr), s.fetch = some c → decodeCommand c = .ok i →
    (s.agenda = [] → step s = exec i s) ∧
    (∀ rest, s.agenda = .engine :: rest → step s = exec i { s with agenda := rest })) ∧
  (∀ s : State, s.pending = none →
    (s.agenda = [] → step s = .next s) ∧
    (∀ rest, s.agenda = .engine :: rest → step s = .next { s with agenda := rest })) ∧
  (∀ (s : State) (nbits w : Nat) (i : Instr), decodeTableWord nbits w = some i →
    step (s.withFetchWord nbits w) = exec i (s.withFetchWord nbits w))

/-- 30_encoding.md R99, 10_state.md R32, R33: from an idle core, the five writes of `issue`, then one engine turn, run
exactly the issued command, with the written ARG values as its snapshot. `wait` reads STATUS, goes on where DONE is 1 and
waits on where it is 0, with an engine turn before the next read (log 16); so `issue` and `wait` together run the command
and go on, with STATUS as the completion left it in the host's hand, when the command completes in that turn. -/
def Obligations.IssueThenEngineTurnRunsTheCommand : Prop :=
  (∀ (s : State) (i : Instr) (rest : List Event),
    s.pending = none → s.agenda = issueEvents s.params i ++ .engine :: rest →
    Sys2Proof.core.run 6 s =
      exec i { s with
        args := (encode i).args, done := false, err := false, errcode := 0, agenda := rest
        pending := some { cmd := encode i, races := [], effort := 0 } }) ∧
  (∀ (s : State) (rest : List Event), s.agenda = waitEvents ++ rest →
    (s.done = true → step s = .next { s with readData := some s.statusWord, agenda := rest }) ∧
    (s.done = false →
      step s = .next { s with readData := some s.statusWord, agenda := .engine :: (waitEvents ++ rest) })) ∧
  (∀ (s t : State) (i : Instr) (rest : List Event),
    s.pending = none → s.agenda = issueEvents s.params i ++ (waitEvents ++ rest) →
    exec i { s with
      args := (encode i).args, done := false, err := false, errcode := 0, agenda := waitEvents ++ rest
      readData := some (if s.overrun then 0x9 else 0x1)
      pending := some { cmd := encode i, races := [], effort := 0 } } = .next t →
    t.done = true →
    Sys2Proof.core.run 8 s = .next { t with readData := some t.statusWord, agenda := rest })

/-- Every step, of the host, the engine or the platform, keeps the invariant `State.Inv`. -/
def Obligations.StepKeepsTheInvariant : Prop :=
  ∀ s t : State, s.Inv → step s = .next t → t.Inv

/-- The state after power-on reset meets the invariant. -/
def Obligations.ResetMeetsTheInvariant : Prop := State.reset.Inv

/-- 20_memory.md R62: at or above BASE, the host accesses with no defined response, and no others, are refused. -/
def Obligations.UndefinedAccessesAreRefused : Prop :=
  ∀ (s : State) (h : HostAccess) (rest : List Event),
    s.agenda = .host h :: rest → s.params.base ≤ h.addr →
    (h.defined s.params → ∃ t, step s = .next t) ∧ (¬h.defined s.params → ∃ r, step s = .refused r)

/-! ### Reset -/

/-- 70_reset_and_hazards.md R380: power-on reset of a running core, and the state `State.reset`. That MEM and P hold draws
of `any` is log 4; that the parameters are data of the state, and kept, is log 1 and log 23. -/
def Obligations.PowerOnResetState : Prop :=
  (∀ (s : State) (rest : List Event), s.agenda = .powerOn :: rest →
    ∃ t, step s = .next t ∧ t.ctrlWord = 0 ∧ t.statusWord = 0 ∧ t.args = ⟨0, 0, 0, 0⟩ ∧ t.resultWord = 0 ∧
      t.pending = none ∧ t.irq = false ∧ t.params = s.params ∧
      (∀ a, t.readByte a = Config.freeByte s.draws a) ∧ (∀ r, t.preg r = freePoly s.draws r)) ∧
  State.reset.ctrlWord = 0 ∧ State.reset.statusWord = 0 ∧ State.reset.args = ⟨0, 0, 0, 0⟩ ∧
  State.reset.resultWord = 0 ∧ State.reset.pending = none ∧ State.reset.irq = false ∧
  (∃ n, ∀ a, State.reset.readByte a = Config.freeByte n a) ∧ (∃ n, ∀ r, State.reset.preg r = freePoly n r)

/-- 70_reset_and_hazards.md R382: a CTRL write with SRST = 1. The bytes of the output regions of a pending command
hold `any`, the other bytes of MEM keep their values, the registers go to their reset values, and P holds `any`. That
`any` is a draw is log 4; that the regions are those of the snapshot as written, where R382 says that a model may take
them so, is log 10. -/
def Obligations.SoftResetState : Prop :=
  ∀ (s : State) (v : Word) (rest : List Event),
    s.agenda = .host (.write s.params.base 4 v) :: rest → v.getLsbD 0 = true →
    ∃ t, step s = .next t ∧ t.ctrlWord = 0 ∧ t.statusWord = 0 ∧ t.args = ⟨0, 0, 0, 0⟩ ∧ t.resultWord = 0 ∧
      t.pending = none ∧ t.irq = false ∧
      (∀ a, a < s.params.memSize →
        t.readByte a = if s.inOutputs a then Config.freeByte s.draws a else s.readByte a) ∧
      (∀ r, t.preg r = freePoly s.draws r) ∧
      t.params = s.params ∧ t.readData = s.readData ∧ t.agenda = rest

/-! ### Registers -/

/-- 10_state.md R22, R23, R25, R27, R29, R31 and 20_memory.md R68: what an aligned 32-bit read of each register-block
offset returns, and that a read changes nothing (but the model's own read data and agenda, log 14, log 2). -/
def Obligations.RegisterReads : Prop :=
  ∀ (s : State) (offset : Nat) (rest : List Event),
    s.agenda = .host (.read (s.params.base + offset) 4) :: rest → offset % 4 = 0 → offset < 0x2000 →
    ∃ v, step s = .next { s with agenda := rest, readData := some v } ∧
      (offset = 0x000 → ∀ n, n < 32 → v.getLsbD n = (decide (n = 1) && s.ie)) ∧
      (offset = 0x004 → ∀ n, n < 32 → v.getLsbD n =
        if n = 0 then s.pending.isSome else if n = 1 then s.done else if n = 2 then s.err
        else if n = 3 then s.overrun else if 8 ≤ n ∧ n < 12 then s.errcode.getLsbD (n - 8) else false) ∧
      (offset = 0x008 → v = 0) ∧
      (offset = 0x010 → v = s.args.a0) ∧ (offset = 0x014 → v = s.args.a1) ∧
      (offset = 0x018 → v = s.args.a2) ∧ (offset = 0x01C → v = s.args.a3) ∧
      (offset = 0x020 → v.toNat = s.result.toNat) ∧
      (offset = 0x00C ∨ 0x024 ≤ offset → v = 0)

/-- 10_state.md R31: accesses to reserved offsets, and writes to the reserved bits of CTRL and STATUS. -/
def Obligations.ReservedAccesses : Prop :=
  (∀ (s : State) (offset : Nat) (rest : List Event),
    offset % 4 = 0 → (offset = 0x00C ∨ (0x024 ≤ offset ∧ offset < 0x2000)) →
    (s.agenda = .host (.read (s.params.base + offset) 4) :: rest →
      step s = .next { s with agenda := rest, readData := some 0 }) ∧
    (∀ v, s.agenda = .host (.write (s.params.base + offset) 4 v) :: rest → step s = .next { s with agenda := rest })) ∧
  (∀ (s : State) (n : Nat),
    (2 ≤ n → s.ctrlWord.getLsbD n = false) ∧
    ((4 ≤ n ∧ n < 8) ∨ 12 ≤ n → s.statusWord.getLsbD n = false)) ∧
  (∀ (s : State) (v w : Word), v.extractLsb' 0 2 = w.extractLsb' 0 2 → s.writeReg 0x000 v = s.writeReg 0x000 w) ∧
  (∀ (s : State) (v w : Word), v.extractLsb' 1 3 = w.extractLsb' 1 3 → s.writeReg 0x004 v = s.writeReg 0x004 w)

/-- 10_state.md R25, 60_exceptions.md R352: a STATUS write clears DONE, ERR with ERRCODE, and OVERRUN where it writes 1,
and changes nothing else. -/
def Obligations.StatusWriteOneToClear : Prop :=
  ∀ (s : State) (v : Word) (rest : List Event),
    s.agenda = .host (.write (s.params.base + 0x004) 4 v) :: rest →
    ∃ t, step s = .next t ∧
      t = { s with agenda := rest, done := t.done, err := t.err, overrun := t.overrun, errcode := t.errcode } ∧
      ∀ n, n < 32 → t.statusWord.getLsbD n =
        if 1 ≤ n ∧ n ≤ 3 then s.statusWord.getLsbD n && !v.getLsbD n
        else if 8 ≤ n ∧ n < 12 then s.statusWord.getLsbD n && !v.getLsbD 2
        else s.statusWord.getLsbD n

/-- 10_state.md R23: the fields of CTRL, and what a write does. -/
def Obligations.CtrlFields : Prop :=
  (∀ (s : State) (n : Nat), s.ctrlWord.getLsbD n = (decide (n = 1) && s.ie)) ∧
  (∀ (s : State) (v : Word) (rest : List Event), s.agenda = .host (.write s.params.base 4 v) :: rest →
    (v.getLsbD 0 = false → step s = .next { s with agenda := rest, ie := v.getLsbD 1 }) ∧
    (v.getLsbD 0 = true → step s = .next { s with agenda := rest }.softReset ∧
      { s with agenda := rest }.softReset.ie = false))

/-- 10_state.md R27: a write to CMD is dropped with OVERRUN while a command runs, and issues one otherwise; CMD reads 0. -/
def Obligations.CmdWrites : Prop :=
  ∀ (s : State) (rest : List Event),
    (∀ v, s.agenda = .host (.write (s.params.base + 0x008) 4 v) :: rest →
      (s.busy = true → step s = .next { s with agenda := rest, overrun := true }) ∧
      (s.busy = false → step s = .next
        { s with
          agenda := rest, done := false, err := false, errcode := 0
          pending := some { cmd := ⟨v, s.args⟩, races := [], effort := 0 } })) ∧
    (s.agenda = .host (.read (s.params.base + 0x008) 4) :: rest →
      step s = .next { s with agenda := rest, readData := some 0 })

/-- 10_state.md R32: issue takes the written word and ARG0 to ARG3 as the snapshot, and a command reads that snapshot,
never the live registers: other ARG values make no difference to what an engine turn does. -/
def Obligations.SnapshotIsolatesTheCommand : Prop :=
  (∀ (s : State) (v : Word) (rest : List Event), s.busy = false →
    s.agenda = .host (.write (s.params.base + 0x008) 4 v) :: rest →
    ∃ t, step s = .next t ∧ t.fetch = some ⟨v, ⟨s.args.a0, s.args.a1, s.args.a2, s.args.a3⟩⟩) ∧
  (∀ (s t : State) (live : Args), engineStep s = .next t →
    engineStep { s with args := live } = .next { t with args := live })

/-- 10_state.md R28: ARG0 to ARG3 are storage; a write changes nothing else, the running command included, and only host
writes to them and reset change them. -/
def Obligations.ArgRegistersAreStorage : Prop :=
  (∀ (s : State) (v : Word) (rest : List Event),
    (s.agenda = .host (.write (s.params.base + 0x010) 4 v) :: rest →
      step s = .next { s with agenda := rest, args := { s.args with a0 := v } }) ∧
    (s.agenda = .host (.write (s.params.base + 0x014) 4 v) :: rest →
      step s = .next { s with agenda := rest, args := { s.args with a1 := v } }) ∧
    (s.agenda = .host (.write (s.params.base + 0x018) 4 v) :: rest →
      step s = .next { s with agenda := rest, args := { s.args with a2 := v } }) ∧
    (s.agenda = .host (.write (s.params.base + 0x01C) 4 v) :: rest →
      step s = .next { s with agenda := rest, args := { s.args with a3 := v } })) ∧
  (∀ s t : State, step s = .next t → t.args ≠ s.args →
    (s.agenda.head? = some .powerOn ∧ t.args = ⟨0, 0, 0, 0⟩) ∨
    (∃ v : Word, s.agenda.head? = some (.host (.write s.params.base 4 v)) ∧ v.getLsbD 0 = true ∧
      t.args = ⟨0, 0, 0, 0⟩) ∨
    (∃ (v : Word) (o : Nat), s.agenda.head? = some (.host (.write (s.params.base + o) 4 v)) ∧
      (o = 0x010 ∨ o = 0x014 ∨ o = 0x018 ∨ o = 0x01C)))

/-- 10_state.md R29: bits 31:12 of RESULT read 0, and no step but the completion of a MULMOD, or a reset to 0, changes
it. That a host write to this read-only register changes nothing at all is the model's reading of R22 (log 11). -/
def Obligations.OnlyMulmodWritesResult : Prop :=
  (∀ s : State, s.resultWord.extractLsb' 0 12 = s.result ∧ s.resultWord.extractLsb' 12 20 = 0) ∧
  (∀ s t : State, step s = .next t → t.result ≠ s.result →
    (s.agenda.head? = some .powerOn ∧ t.result = 0) ∨
    (∃ v : Word, s.agenda.head? = some (.host (.write s.params.base 4 v)) ∧ v.getLsbD 0 = true ∧ t.result = 0) ∨
    ((s.agenda = [] ∨ s.agenda.head? = some .engine) ∧ t.pending = none ∧
      ∃ c, s.fetch = some c ∧ c.word = 0x10)) ∧
  (∀ (s : State) (v : Word) (rest : List Event), s.agenda = .host (.write (s.params.base + 0x020) 4 v) :: rest →
    step s = .next { s with agenda := rest })

/-- 10_state.md R30, 60_exceptions.md R350: `irq` is CTRL.IE and STATUS.DONE. It falls only by a reset, by clearing IE,
by writing 1 to DONE or by issuing a command; it rises only by a completion or by setting IE. -/
def Obligations.InterruptLevel : Prop :=
  (∀ s : State, s.irq = (s.ctrlWord.getLsbD 1 && s.statusWord.getLsbD 1)) ∧
  (∀ s t : State, step s = .next t → s.irq = true → t.irq = false →
    s.agenda.head? = some .powerOn ∨
    ∃ (o : Nat) (v : Word), s.agenda.head? = some (.host (.write (s.params.base + o) 4 v)) ∧
      ((o = 0x000 ∧ (v.getLsbD 0 = true ∨ v.getLsbD 1 = false)) ∨ (o = 0x004 ∧ v.getLsbD 1 = true) ∨
        (o = 0x008 ∧ s.busy = false))) ∧
  (∀ s t : State, step s = .next t → s.irq = false → t.irq = true →
    ((s.agenda = [] ∨ s.agenda.head? = some .engine) ∧ s.ie = true ∧ s.busy = true ∧ t.busy = false) ∨
    (s.done = true ∧
      ∃ v : Word, s.agenda.head? = some (.host (.write s.params.base 4 v)) ∧ v.getLsbD 0 = false ∧ v.getLsbD 1 = true))

/-! ### MEM and its window -/

/-- 20_memory.md R60: reads and writes of the MEM window, 1, 2 or 4 bytes, naturally aligned, little-endian, away from
the regions of a running command (for those, R70: `RacesGiveAny`). -/
def Obligations.MemWindowAccesses : Prop :=
  ∀ (s : State) (a w : Nat) (rest : List Event),
    (w = 1 ∨ w = 2 ∨ w = 4) → a % w = 0 → a + w ≤ s.params.memSize →
    (s.agenda = .host (.read (s.params.base + 0x2000 + a) w) :: rest → (∀ k, k < w → s.inOutputs (a + k) = false) →
      ∃ v, step s = .next { s with agenda := rest, readData := some v } ∧
        v.toNat = littleEndian w (fun k => s.readByte (a + k))) ∧
    (∀ v : Word, s.agenda = .host (.write (s.params.base + 0x2000 + a) w v) :: rest →
      (∀ k, k < w → s.inRegions (a + k) = false) →
      ∃ t, step s = .next t ∧ t = { s with agenda := rest, mem := t.mem } ∧
        ∀ x, t.readByte x = if a ≤ x ∧ x < a + w then v.extractLsb' (8 * (x - a)) 8 else s.readByte x)

/-- 20_memory.md R70: while a command runs, a host read of a byte of its output regions returns `any`, and of any other
byte the byte; a host write to a byte outside its regions takes effect, and inside them it is a race, after which the
byte holds `any` and the completion, once no rejection loop is running (70_reset_and_hazards.md R395), leaves `any` in
every output byte and in P and RESULT where the command writes them, with no error. A raced command that fails its
argument check reports its code, and its output bytes inside MEM hold `any` too (log 8, log 10). `any` is a fresh draw
(log 4), the raced byte takes one too (log 8). -/
def Obligations.RacesGiveAny : Prop :=
  (∀ (s : State) (a w : Nat) (rest : List Event),
    (w = 1 ∨ w = 2 ∨ w = 4) → a % w = 0 → a + w ≤ s.params.memSize →
    (s.agenda = .host (.read (s.params.base + 0x2000 + a) w) :: rest →
      ∃ (v : Word) (n : Nat), step s = .next { s with agenda := rest, readData := some v, draws := n } ∧ s.draws ≤ n ∧
        ∀ k, k < w → v.extractLsb' (8 * k) 8 =
          if s.inOutputs (a + k) then Config.freeByte s.draws (a + k) else s.readByte (a + k)) ∧
    (∀ v : Word, s.agenda = .host (.write (s.params.base + 0x2000 + a) w v) :: rest →
      ∃ t, step s = .next t ∧
        t = { s with agenda := rest, mem := t.mem, draws := t.draws, pending := t.pending } ∧ t.fetch = s.fetch ∧
        (∀ x, x < a ∨ a + w ≤ x → t.readByte x = s.readByte x) ∧
        (∀ x, a ≤ x → x < a + w → s.inRegions x = false → t.readByte x = v.extractLsb' (8 * (x - a)) 8) ∧
        (∀ x, a ≤ x → x < a + w → s.inRegions x = true →
          ∃ n, s.draws ≤ n ∧ n < t.draws ∧ t.readByte x = Config.freeByte n x) ∧
        (∀ x, x ∈ t.races ↔ x ∈ s.races ∨ (a ≤ x ∧ x < a + w ∧ s.inRegions x = true)))) ∧
  (∀ (i : Instr) (s : State), i.wellFormed s.params → s.races ≠ [] → loopsStopped s.windows i s = true →
    ∃ t, exec i s = .next t ∧
      t = { s with
        pending := none, done := true, mem := t.mem, pregs := t.pregs, pregDraw := t.pregDraw
        result := t.result, draws := s.draws + 1 } ∧
      (∀ x, t.readByte x =
        if (outputs i).any (·.has x) = true ∨ x ∈ s.races then Config.freeByte s.draws x else s.readByte x) ∧
      DestFree i s t) ∧
  (∀ (s : State) (c : Command) (i : Instr), s.fetch = some c → decodeCommand c = .ok i →
    expectedCode s.params i ≠ 0 → s.races ≠ [] →
    ∃ t, engineStep s = .next t ∧
      t = { s with
        pending := none, done := true, err := true, errcode := BitVec.ofNat 4 (expectedCode s.params i)
        mem := t.mem, draws := s.draws + 1 } ∧
      ∀ x, t.readByte x =
        if (x < s.params.memSize ∧ (outputs i).any (·.has x) = true) ∨ x ∈ s.races then Config.freeByte s.draws x
        else s.readByte x)

/-- 20_memory.md R66: a command changes MEM only inside its output regions, and a failed one nowhere; what it does
depends on MEM only through its input regions: two states that agree on them end with the same value of everything but
MEM, and, where it was the pending command and has completed, with the same output bytes. -/
def Obligations.CommandsTouchOnlyTheirRegions : Prop :=
  (∀ (i : Instr) (s t : State) (x : Nat), s.races = [] → exec i s = .next t →
    (¬i.wellFormed s.params ∨ ∀ o ∈ outputs i, o.has x = false) → t.readByte x = s.readByte x) ∧
  (∀ (i : Instr) (s t t' : State) (m : Memory), s.races = [] → i.wellFormed s.params →
    (∀ r ∈ inputs i, ∀ x, r.has x = true → { s with mem := m }.readByte x = s.readByte x) →
    exec i s = .next t → exec i { s with mem := m } = .next t' →
    { t with mem := [] } = { t' with mem := [] } ∧
    (s.busy = true → t.busy = false → ∀ o ∈ outputs i, ∀ x, o.has x = true → t.readByte x = t'.readByte x))

/-! ### The argument check -/

/-- 60_exceptions.md R343, R345: the checks of the pending command, in their order, with their codes; a failed command
changes STATUS and nothing else. (A command the host raced on is R70's: log 8.) -/
def Obligations.FailedChecksInOrder : Prop :=
  (∀ (s : State) (c : Command), s.races = [] → s.fetch = some c →
    (∀ row ∈ opcodeMap, c.word.toNat ≠ row.1) →
    engineStep s = .next { s with pending := none, done := true, err := true, errcode := 1 }) ∧
  (∀ (s : State) (c : Command) (i : Instr), s.races = [] → s.fetch = some c → decodeCommand c = .ok i →
    expectedCode s.params i ≠ 0 →
    engineStep s = .next
      { s with pending := none, done := true, err := true, errcode := BitVec.ofNat 4 (expectedCode s.params i) }) ∧
  (∀ (p : Params) (i : Instr), expectedCode p i = 0 ↔ i.wellFormed p)

/-! ### What each command does -/

/-- 47_system.md R330. -/
def Obligations.NopCompletes : Prop :=
  ∀ s : State, s.races = [] → exec .nop s = .next { s with pending := none, done := true }

/-- 41_keccak_sponge.md R134: KECCAKF completes and writes the permuted state to its 200 output bytes only. -/
def Obligations.KeccakfCompletes : Prop :=
  ∀ (s : State) (src dst : Word), (Instr.keccakf src dst).wellFormed s.params → s.races = [] →
    ∃ t, exec (.keccakf src dst) s = .next t ∧ t = { s with pending := none, done := true, mem := t.mem } ∧
      MemBecomes s t dst.toNat (bytesOfLanes (keccakF (lanesOfBytes (s.readBytes src.toNat 200)))) ∧
      (bytesOfLanes (keccakF (lanesOfBytes (s.readBytes src.toNat 200)))).length = 200

/-- 41_keccak_sponge.md R130, R131, R135, R136: SHA3_256 and SHA3_512 complete and write the hash of the input region to
their output region only. -/
def Obligations.Sha3CommandsComplete : Prop :=
  (∀ (s : State) (src len dst : Word), (Instr.sha3_256 src len dst).wellFormed s.params → s.races = [] →
    ∃ t, exec (.sha3_256 src len dst) s = .next t ∧ t = { s with pending := none, done := true, mem := t.mem } ∧
      MemBecomes s t dst.toNat (sponge (s.readBytes src.toNat len.toNat) 136 0x06 32) ∧
      (sponge (s.readBytes src.toNat len.toNat) 136 0x06 32).length = 32) ∧
  (∀ (s : State) (src len dst : Word), (Instr.sha3_512 src len dst).wellFormed s.params → s.races = [] →
    ∃ t, exec (.sha3_512 src len dst) s = .next t ∧ t = { s with pending := none, done := true, mem := t.mem } ∧
      MemBecomes s t dst.toNat (sponge (s.readBytes src.toNat len.toNat) 72 0x06 64) ∧
      (sponge (s.readBytes src.toNat len.toNat) 72 0x06 64).length = 64)

/-- 41_keccak_sponge.md R132, R133, R137, R138: PRF and XOF complete and write the SHAKE output of seed ∥ N, and of
ρ ∥ b32 ∥ b33, to their output region only; N, b32, b33 are the bytes of the operand, lowest first (30_encoding.md R92). -/
def Obligations.PrfAndXofComplete : Prop :=
  (∀ (s : State) (seed nonce dst : Word), (Instr.prf seed nonce dst).wellFormed s.params → s.races = [] →
    ∃ t, exec (.prf seed nonce dst) s = .next t ∧ t = { s with pending := none, done := true, mem := t.mem } ∧
      MemBecomes s t dst.toNat (sponge (s.readBytes seed.toNat 32 ++ [BitVec.ofNat 8 nonce.toNat]) 136 0x1F 128) ∧
      (sponge (s.readBytes seed.toNat 32 ++ [BitVec.ofNat 8 nonce.toNat]) 136 0x1F 128).length = 128) ∧
  (∀ (s : State) (rhoAt idx dst len : Word), (Instr.xof rhoAt idx dst len).wellFormed s.params → s.races = [] →
    ∃ t, exec (.xof rhoAt idx dst len) s = .next t ∧ t = { s with pending := none, done := true, mem := t.mem } ∧
      MemBecomes s t dst.toNat
        (sponge (s.readBytes rhoAt.toNat 32 ++ [BitVec.ofNat 8 (idx.toNat % 256), BitVec.ofNat 8 (idx.toNat / 256)])
          168 0x1F len.toNat) ∧
      (sponge (s.readBytes rhoAt.toNat 32 ++ [BitVec.ofNat 8 (idx.toNat % 256), BitVec.ofNat 8 (idx.toNat / 256)])
          168 0x1F len.toNat).length = len.toNat)

/-- 42_modarith.md R171: MULMOD completes, with any operands; RESULT holds the residue in contract, `any` outside. -/
def Obligations.MulmodCompletes : Prop :=
  ∀ (s : State) (a b : Word), s.races = [] →
    ∃ t, exec (.mulmod a b) s = .next t ∧
      t = { s with pending := none, done := true, result := t.result, draws := t.draws } ∧
      ((-3328 ≤ a.toInt ∧ a.toInt ≤ 3328 ∧ -3328 ≤ b.toInt ∧ b.toInt ≤ 3328 →
          (t.result.toNat : Int) = a.toInt * b.toInt % 3329) ∧
        (¬(-3328 ≤ a.toInt ∧ a.toInt ≤ 3328 ∧ -3328 ≤ b.toInt ∧ b.toInt ≤ 3328) →
          t.result = Config.freeResult s.draws))

/-- 42_modarith.md R173, R174: PADD and PSUB of canonical registers complete with the coefficient-wise sum and difference
mod q; the operands may name the same register. -/
def Obligations.PaddAndPsubComplete : Prop :=
  ∀ (s : State) (d a b : Word), isPreg s.params d → isPreg s.params a → isPreg s.params b → s.races = [] →
    canonical (s.preg a.toNat).coeffs = true → canonical (s.preg b.toNat).coeffs = true →
    (∃ t, exec (.padd d a b) s = .next t ∧ t = { s with pending := none, done := true, pregs := t.pregs } ∧
      (∀ r, r ≠ d.toNat → t.preg r = s.preg r) ∧
      ∀ c, c < 256 → (t.preg d.toNat).coeffs.getD c 0 =
        ((s.preg a.toNat).coeffs.getD c 0 + (s.preg b.toNat).coeffs.getD c 0) % 3329) ∧
    (∃ t, exec (.psub d a b) s = .next t ∧ t = { s with pending := none, done := true, pregs := t.pregs } ∧
      (∀ r, r ≠ d.toNat → t.preg r = s.preg r) ∧
      ∀ c, c < 256 → ((t.preg d.toNat).coeffs.getD c 0 : Int) =
        (((s.preg a.toNat).coeffs.getD c 0 : Int) - (s.preg b.toNat).coeffs.getD c 0) % 3329)

/-- 43_ntt.md R195, R196: NTT and INTT of a canonical register complete with its transform. -/
def Obligations.NttAndInttComplete : Prop :=
  ∀ (s : State) (d a : Word), isPreg s.params d → isPreg s.params a → s.races = [] →
    canonical (s.preg a.toNat).coeffs = true →
    (∃ t, exec (.ntt d a) s = .next t ∧ t = { s with pending := none, done := true, pregs := t.pregs } ∧
      PregBecomes s t d (ntt (s.preg a.toNat).coeffs)) ∧
    (∃ t, exec (.intt d a) s = .next t ∧ t = { s with pending := none, done := true, pregs := t.pregs } ∧
      PregBecomes s t d (intt (s.preg a.toNat).coeffs))

/-- 43_ntt.md R194, R197: BASEMUL of canonical registers completes with the 128 base-case products. -/
def Obligations.BasemulCompletes : Prop :=
  ∀ (s : State) (d a b : Word), isPreg s.params d → isPreg s.params a → isPreg s.params b → s.races = [] →
    canonical (s.preg a.toNat).coeffs = true → canonical (s.preg b.toNat).coeffs = true →
    ∃ t, exec (.basemul d a b) s = .next t ∧ t = { s with pending := none, done := true, pregs := t.pregs } ∧
      (∀ r, r ≠ d.toNat → t.preg r = s.preg r) ∧
      ∀ m, m < 128 →
        let A := (s.preg a.toNat).coeffs
        let B := (s.preg b.toNat).coeffs
        let C := (t.preg d.toNat).coeffs
        C.getD (2 * m) 0 =
          (A.getD (2 * m) 0 * B.getD (2 * m) 0 +
            gammas.getD m 0 * (A.getD (2 * m + 1) 0 * B.getD (2 * m + 1) 0)) % 3329 ∧
        C.getD (2 * m + 1) 0 =
          (A.getD (2 * m) 0 * B.getD (2 * m + 1) 0 + A.getD (2 * m + 1) 0 * B.getD (2 * m) 0) % 3329

/-- Decision D14 as 42_modarith.md R173, R174 and 43_ntt.md R195 to R197 use it: on a non-canonical source these commands
complete, with `any` cells in the destination. -/
def Obligations.OutOfContractRegistersGiveAny : Prop :=
  (∀ (s : State) (d a b : Word), isPreg s.params d → isPreg s.params a → isPreg s.params b → s.races = [] →
    (canonical (s.preg a.toNat).coeffs = false ∨ canonical (s.preg b.toNat).coeffs = false) →
    ∀ i, i = Instr.padd d a b ∨ i = Instr.psub d a b ∨ i = Instr.basemul d a b →
      ∃ t, exec i s = .next t ∧
        t = { s with pending := none, done := true, pregs := t.pregs, draws := s.draws + 1 } ∧ PregFree s t d) ∧
  (∀ (s : State) (d a : Word), isPreg s.params d → isPreg s.params a → s.races = [] →
    canonical (s.preg a.toNat).coeffs = false →
    ∀ i, i = Instr.ntt d a ∨ i = Instr.intt d a →
      ∃ t, exec i s = .next t ∧
        t = { s with pending := none, done := true, pregs := t.pregs, draws := s.draws + 1 } ∧ PregFree s t d)

/-- 44_samplers.md R220, R221: coefficient i of the sample is (b[4i] + b[4i+1]) − (b[4i+2] + b[4i+3]) mod q in bits of the
stream; CBD2 completes with the sample of its 128 input bytes. -/
def Obligations.Cbd2Completes : Prop :=
  (∀ B : List Byte, B.length = 128 → (cbd2 B).length = 256 ∧ ∀ i, i < 256 →
    ((cbd2 B).getD i 0 : Int) =
      (((streamBit B (4 * i)).toNat + (streamBit B (4 * i + 1)).toNat : Int) -
        ((streamBit B (4 * i + 2)).toNat + (streamBit B (4 * i + 3)).toNat)) % 3329 ∧
    (cbd2 B).getD i 0 ∈ [0, 1, 2, 3327, 3328]) ∧
  (∀ (s : State) (d src : Word), (Instr.cbd2 d src).wellFormed s.params → s.races = [] →
    ∃ t, exec (.cbd2 d src) s = .next t ∧ t = { s with pending := none, done := true, pregs := t.pregs } ∧
      PregBecomes s t d (cbd2 (s.readBytes src.toNat 128)))

/-- 44_samplers.md R231, R232: where the rejection loop stops within the windows the engine looks at (log 7), SAMPLENTT
completes with the 256 accepted candidates, each below q. -/
def Obligations.SamplenttCompletes : Prop :=
  ∀ (s : State) (d rhoAt idx : Word) (f : List Nat), (Instr.samplentt d rhoAt idx).wellFormed s.params → s.races = [] →
    parse (xofBytes (s.readBytes rhoAt.toNat 32) (BitVec.ofNat 8 (idx.toNat % 256)) (BitVec.ofNat 8 (idx.toNat / 256))
      (168 * s.windows)) = some f →
    ∃ t, exec (.samplentt d rhoAt idx) s = .next t ∧ t = { s with pending := none, done := true, pregs := t.pregs } ∧
      PregBecomes s t d f ∧ f.length = 256 ∧ ∀ x ∈ f, x < 3329

/-- 45_codec.md R260, R262, R264, R266: ENC12, COMP10, COMP4 and TOMSG of a canonical register complete and write the
packed bytes to their output region only. -/
def Obligations.EncodingCommandsComplete : Prop :=
  ∀ (s : State) (src dst : Word), s.races = [] → canonical (s.preg src.toNat).coeffs = true →
    ((Instr.enc12 src dst).wellFormed s.params →
      ∃ t, exec (.enc12 src dst) s = .next t ∧ t = { s with pending := none, done := true, mem := t.mem } ∧
        MemBecomes s t dst.toNat (byteEncode 12 (s.preg src.toNat).coeffs) ∧
        (byteEncode 12 (s.preg src.toNat).coeffs).length = 384) ∧
    ((Instr.comp10 src dst).wellFormed s.params →
      ∃ t, exec (.comp10 src dst) s = .next t ∧ t = { s with pending := none, done := true, mem := t.mem } ∧
        MemBecomes s t dst.toNat (byteEncode 10 ((s.preg src.toNat).coeffs.map (compress 10))) ∧
        (byteEncode 10 ((s.preg src.toNat).coeffs.map (compress 10))).length = 320) ∧
    ((Instr.comp4 src dst).wellFormed s.params →
      ∃ t, exec (.comp4 src dst) s = .next t ∧ t = { s with pending := none, done := true, mem := t.mem } ∧
        MemBecomes s t dst.toNat (byteEncode 4 ((s.preg src.toNat).coeffs.map (compress 4))) ∧
        (byteEncode 4 ((s.preg src.toNat).coeffs.map (compress 4))).length = 128) ∧
    ((Instr.tomsg src dst).wellFormed s.params →
      ∃ t, exec (.tomsg src dst) s = .next t ∧ t = { s with pending := none, done := true, mem := t.mem } ∧
        MemBecomes s t dst.toNat (decodeMsg (s.preg src.toNat).coeffs) ∧
        (decodeMsg (s.preg src.toNat).coeffs).length = 32)

/-- Decision D14 as 45_codec.md uses it: COMP10, COMP4 and TOMSG of a non-canonical register complete, with `any` bytes in
the output region and nothing else written. ENC12 of one completes too, with the cells unchanged where the open choice
`Config.enc12Keeps` follows R260 and with `any` bytes where it follows 93_implementation_defined.md U1 (log 12). -/
def Obligations.OutOfContractEncodingsGiveAny : Prop :=
  (∀ (s : State) (src dst : Word), s.races = [] → canonical (s.preg src.toNat).coeffs = false →
    ∀ i n, (i = Instr.comp10 src dst ∧ n = 320) ∨ (i = Instr.comp4 src dst ∧ n = 128) ∨
        (i = Instr.tomsg src dst ∧ n = 32) →
      i.wellFormed s.params →
      ∃ t, exec i s = .next t ∧ t = { s with pending := none, done := true, mem := t.mem, draws := s.draws + 1 } ∧
        ∀ x, t.readByte x =
          if dst.toNat ≤ x ∧ x < dst.toNat + n then Config.freeByte s.draws x else s.readByte x) ∧
  (∀ (s : State) (src dst : Word), s.races = [] → canonical (s.preg src.toNat).coeffs = false →
    (Instr.enc12 src dst).wellFormed s.params →
    ∃ t, exec (.enc12 src dst) s = .next t ∧
      t = { s with pending := none, done := true, mem := t.mem, draws := t.draws } ∧
      (Config.enc12Keeps = true → MemBecomes s t dst.toNat (byteEncode 12 (s.preg src.toNat).coeffs)) ∧
      (Config.enc12Keeps = false → ∀ x, t.readByte x =
        if dst.toNat ≤ x ∧ x < dst.toNat + 384 then Config.freeByte s.draws x else s.readByte x))

/-- 45_codec.md R261, R263, R265, R267: DEC12, DECOMP10, DECOMP4 and FROMMSG complete on every input and write their
destination register only. -/
def Obligations.DecodingCommandsComplete : Prop :=
  ∀ (s : State) (d src : Word), s.races = [] →
    ((Instr.dec12 d src).wellFormed s.params →
      ∃ t, exec (.dec12 d src) s = .next t ∧ t = { s with pending := none, done := true, pregs := t.pregs } ∧
        PregBecomes s t d (byteDecode 12 (s.readBytes src.toNat 384))) ∧
    ((Instr.decomp10 d src).wellFormed s.params →
      ∃ t, exec (.decomp10 d src) s = .next t ∧ t = { s with pending := none, done := true, pregs := t.pregs } ∧
        PregBecomes s t d ((byteDecode 10 (s.readBytes src.toNat 320)).map (decompress 10)) ∧
        canonical (t.preg d.toNat).coeffs = true) ∧
    ((Instr.decomp4 d src).wellFormed s.params →
      ∃ t, exec (.decomp4 d src) s = .next t ∧ t = { s with pending := none, done := true, pregs := t.pregs } ∧
        PregBecomes s t d ((byteDecode 4 (s.readBytes src.toNat 128)).map (decompress 4)) ∧
        canonical (t.preg d.toNat).coeffs = true) ∧
    ((Instr.frommsg d src).wellFormed s.params →
      ∃ t, exec (.frommsg d src) s = .next t ∧ t = { s with pending := none, done := true, pregs := t.pregs } ∧
        PregBecomes s t d ((byteDecode 1 (s.readBytes src.toNat 32)).map (1665 * ·)) ∧
        ∀ x ∈ (t.preg d.toNat).coeffs, x = 0 ∨ x = 1665)

/-- 46_kem.md R299, R300: where its rejection loops stop within the windows looked at (log 7), KEYGEN completes, writes pk
and sk of `KeyGen(d, z)` and nothing else of MEM, and leaves `any` in every P register. -/
def Obligations.KeygenCompletes : Prop :=
  ∀ (s : State) (d z pk sk : Word) (PK SK : List Byte), (Instr.keygen d z pk sk).wellFormed s.params → s.races = [] →
    keyGen s.windows (s.readBytes d.toNat 32) (s.readBytes z.toNat 32) = some (PK, SK) →
    ∃ t, exec (.keygen d z pk sk) s = .next t ∧
      t = { s with
        pending := none, done := true, mem := t.mem, pregs := t.pregs, pregDraw := t.pregDraw, draws := t.draws } ∧
      MemBecomesTwo s t pk.toNat 1184 PK sk.toNat 2400 SK ∧ PK.length = 1184 ∧ SK.length = 2400 ∧
      ∀ r, t.preg r = freePoly s.draws r

/-- 46_kem.md R299, R301: where its rejection loops stop within the windows looked at (log 7), ENCAPS completes. With a pk
in contract it writes ct and K of `Encaps(pk, m)`, with one outside `any` bytes in both (decision D14); it writes
nothing else of MEM, and leaves `any` in every P register. -/
def Obligations.EncapsCompletes : Prop :=
  ∀ (s : State) (pk m ct key : Word) (CT KK : List Byte), (Instr.encaps pk m ct key).wellFormed s.params →
    s.races = [] →
    encapsulate s.windows (s.readBytes pk.toNat 1184) (s.readBytes m.toNat 32) = some (CT, KK) →
    ∃ t, exec (.encaps pk m ct key) s = .next t ∧
      t = { s with
        pending := none, done := true, mem := t.mem, pregs := t.pregs, pregDraw := t.pregDraw, draws := t.draws } ∧
      CT.length = 1088 ∧ KK.length = 32 ∧
      (pkCanonical (s.readBytes pk.toNat 1184) = true →
        MemBecomesTwo s t ct.toNat 1088 CT key.toNat 32 KK) ∧
      (pkCanonical (s.readBytes pk.toNat 1184) = false →
        MemBecomesTwo s t ct.toNat 1088 (freeBytes s.draws ct.toNat 1088) key.toNat 32
          (freeBytes s.draws key.toNat 32)) ∧
      ∀ r, t.preg r = freePoly s.draws r

/-- 46_kem.md R299, R302: where its rejection loops stop within the windows looked at (log 7), DECAPS completes, with no
error whichever branch it took. With an sk in contract it writes K of `Decaps(sk, ct)`, with one outside `any` bytes
(decision D14); it writes nothing else of MEM, and leaves `any` in every P register. -/
def Obligations.DecapsCompletes : Prop :=
  ∀ (s : State) (sk ct key : Word) (KK : List Byte), (Instr.decaps sk ct key).wellFormed s.params → s.races = [] →
    decapsulate s.params.rejectHash s.windows (s.readBytes sk.toNat 2400) (s.readBytes ct.toNat 1088) = some KK →
    ∃ t, exec (.decaps sk ct key) s = .next t ∧
      t = { s with
        pending := none, done := true, mem := t.mem, pregs := t.pregs, pregDraw := t.pregDraw, draws := t.draws } ∧
      KK.length = 32 ∧
      (skCanonical (s.readBytes sk.toNat 2400) = true → MemBecomes s t key.toNat KK) ∧
      (skCanonical (s.readBytes sk.toNat 2400) = false →
        MemBecomes s t key.toNat (freeBytes s.draws key.toNat 32)) ∧
      ∀ r, t.preg r = freePoly s.draws r

/-! ### Rejection loops -/

/-- 44_samplers.md R233, 70_reset_and_hazards.md R395: an accepted command, raced on or not, completes in its engine
turn, without error, unless a rejection loop has not stopped within the windows looked at (log 7); then it stays
pending and nothing changes but the model's count of turns. -/
def Obligations.OnlyRejectionLoopsDelayCompletion : Prop :=
  ∀ (i : Instr) (s : State), i.wellFormed s.params →
    ∃ t, exec i s = .next t ∧
      if loopsStopped s.windows i s then
        t.pending = none ∧ t.done = true ∧ t.err = s.err ∧ t.errcode = s.errcode
      else t = { s with pending := s.pending.map fun p => { p with effort := p.effort + 1 } }

/-- 44_samplers.md R233 with the fairness of decision D29 (log 3): with no other event to come, a pending accepted command
whose rejection loops stop within some number of windows completes within that many engine turns and one. -/
def Obligations.StoppedLoopsComplete : Prop :=
  ∀ (s : State) (c : Command) (i : Instr) (w : Nat),
    s.agenda = [] → s.fetch = some c → decodeCommand c = .ok i → i.wellFormed s.params →
    loopsStopped w i s = true →
    ∃ (k : Nat) (t : State), k ≤ w + 1 ∧ Sys2Proof.core.run k s = .next t ∧ t.pending = none ∧ t.done = true ∧
      t.err = s.err ∧ t.errcode = s.errcode

/-- 44_samplers.md R234: the result of a rejection loop, and of each function built on it, does not depend on how much
of the stream is materialised, once that is enough. -/
def Obligations.ResultsDoNotDependOnTheWindow : Prop :=
  ∀ w w' : Nat, w ≤ w' →
    (∀ (rhoSeed : List Byte) (b32 b33 : Byte) (f : List Nat),
      sampleNtt w rhoSeed b32 b33 = some f → sampleNtt w' rhoSeed b32 b33 = some f) ∧
    (∀ (d z : List Byte) (r : List Byte × List Byte), keyGen w d z = some r → keyGen w' d z = some r) ∧
    (∀ (pk m : List Byte) (r : List Byte × List Byte), encapsulate w pk m = some r → encapsulate w' pk m = some r) ∧
    (∀ (rh : RejectHash) (sk ct r : List Byte), decapsulate rh w sk ct = some r → decapsulate rh w' sk ct = some r)

/-- 10_state.md R26, 46_kem.md R299: change MEM in any way that keeps ρ of the secret key, hence change the key, the
ciphertext and which branch DECAPS takes: DECAPS still completes in the same engine turn, and ends with every register,
flag, P register and free draw the same. -/
def Obligations.DecapsBranchIsInvisible : Prop :=
  ∀ (s : State) (m : Memory) (sk ct key : Word),
    { s with mem := m }.readBytes (sk.toNat + 2304) 32 = s.readBytes (sk.toNat + 2304) 32 →
    ∃ t t', exec (.decaps sk ct key) s = .next t ∧ exec (.decaps sk ct key) { s with mem := m } = .next t' ∧
      { t with mem := [] } = { t' with mem := [] }

/-! ### Modular arithmetic and the transforms -/

/-- 42_modarith.md R170, R175, and the realisation of R172. -/
def Obligations.ModularArithmetic : Prop :=
  (∀ a b : Int, (mulMod a b : Int) = a * b % 3329 ∧ mulMod a b < 3329) ∧
  mulMod (-1) 1 = 3328 ∧
  (∀ a b : Nat, a < 3329 → b < 3329 →
    addQ a b = (a + b) % 3329 ∧ (subQ a b : Int) = ((a : Int) - b) % 3329 ∧ addQ a b < 3329 ∧ subQ a b < 3329) ∧
  (∀ x : Int, -(3328 * 3328) ≤ x → x ≤ 3328 * 3328 → barrett x = x % 3329)

/-- 43_ntt.md R191, R192, 41_keccak_sponge.md R122, R125: the four tables are what their generators give. -/
def Obligations.ConstantTablesFollowTheirGenerators : Prop :=
  (zetas.length = 128 ∧ ∀ i, i < 128 → zetas.getD i 0 = 17 ^ brv7 i % 3329) ∧
  (17 ^ 128 % 3329 = 3328) ∧
  (gammas.length = 128 ∧ ∀ i, i < 128 → gammas.getD i 0 = 17 ^ (2 * brv7 i + 1) % 3329) ∧
  (∀ m, m < 64 → gammas.getD (2 * m + 1) 0 = 3329 - gammas.getD (2 * m) 0 ∧
    gammas.getD (2 * m) 0 = zetas.getD (64 + m) 0) ∧
  (rotOffset 0 0 = 0 ∧ ∀ e ∈ rotWalk 24 0 1 0, rotOffset e.1 e.2.1 = e.2.2) ∧
  (keccakRc.length = 24 ∧ ∀ ir, ir < 24 → ∀ n, n < 64 → (keccakRc.getD ir 0).getLsbD n =
    (List.range 7).any fun j => decide (n = 2 ^ j - 1) && (lfsr (j + 7 * ir)).testBit 0)

/-- 41_keccak_sponge.md R121, R123, R124, R126, with ρ and ι of R122 and R125: the steps lane by lane, and 24 rounds of
them in order. -/
def Obligations.KeccakStepMappings : Prop :=
  (∀ (A : Lanes) (x y : Nat), x < 5 → y < 5 →
    lane (theta A) x y = lane A x y ^^^
      ((lane A (x + 4) 0 ^^^ lane A (x + 4) 1 ^^^ lane A (x + 4) 2 ^^^ lane A (x + 4) 3 ^^^ lane A (x + 4) 4) ^^^
        (lane A (x + 1) 0 ^^^ lane A (x + 1) 1 ^^^ lane A (x + 1) 2 ^^^ lane A (x + 1) 3 ^^^
          lane A (x + 1) 4).rotateLeft 1) ∧
    lane (rho A) x y = (lane A x y).rotateLeft (rotOffset x y) ∧
    lane (piStep A) y (2 * x + 3 * y) = lane A x y ∧
    lane (chi A) x y = lane A x y ^^^ (~~~lane A (x + 1) y &&& lane A (x + 2) y)) ∧
  (∀ (A : Lanes) (rc : Lane) (x y : Nat), x < 5 → y < 5 →
    lane (iota A rc) x y = if x = 0 ∧ y = 0 then lane A 0 0 ^^^ rc else lane A x y) ∧
  (∀ A : Lanes, keccakF A =
    (List.range 24).foldl (fun A ir => iota (chi (piStep (rho (theta A)))) (keccakRc.getD ir 0)) A)

/-- 41_keccak_sponge.md R128: where the bytes of the padded message stand, also when both pad bytes fall on one; that
every block is xor-ed in and permuted in turn, and every `r` output bytes come from the next state, for every length of
message and output; R129: one permutation gives G of at most 71 bytes; R127: the byte order of the lanes, both ways; and
R130 to R133, 46_kem.md R298: the rates and domain bytes of the functions built on the sponge. -/
def Obligations.SpongePadding : Prop :=
  (∀ (M : List Byte) (r : Nat) (ds : Byte), 1 < r →
    let P := padded M r ds
    let n := M.length / r + 1
    P.length = n * r ∧
    (∀ k, k < M.length → P.getD k 0 = M.getD k 0) ∧
    (M.length + 1 < n * r → P.getD M.length 0 = ds ∧ P.getD (n * r - 1) 0 = 0x80 ∧
      ∀ k, M.length < k → k + 1 < n * r → P.getD k 0 = 0) ∧
    (M.length + 1 = n * r → P.getD M.length 0 = ds ^^^ 0x80)) ∧
  (∀ M : List Byte, M.length ≤ 71 →
    hashG M = (keccakFBytes (padded M 72 0x06 ++ List.replicate 128 0)).take 64) ∧
  (∀ (M : List Byte) (r : Nat) (ds : Byte) (L : Nat), r = 72 ∨ r = 136 ∨ r = 168 →
    (sponge M r ds L).length = L ∧
    ∀ k, k < L → (sponge M r ds L).getD k 0 =
      (spongeState (padded M r ds) r (M.length / r + 1 + k / r)).getD (k % r) 0) ∧
  (∀ (S : List Byte) (x y : Nat), S.length = 200 → x < 5 → y < 5 →
    (lane (lanesOfBytes S) x y).toNat = littleEndian 8 (fun b => S.getD (8 * (x + 5 * y) + b) 0)) ∧
  (∀ A : Lanes, A.length = 25 →
    (bytesOfLanes A).length = 200 ∧
    ∀ x y b, x < 5 → y < 5 → b < 8 →
      (bytesOfLanes A).getD (8 * (x + 5 * y) + b) 0 = (lane A x y).extractLsb' (8 * b) 8) ∧
  (∀ S : List Byte, keccakFBytes S = bytesOfLanes (keccakF (lanesOfBytes S))) ∧
  (∀ M : List Byte, hashH M = sponge M 136 0x06 32 ∧ hashG M = sponge M 72 0x06 64 ∧
    rejectHash .sha3_256 M = sponge M 136 0x06 32 ∧ rejectHash .shake256_32 M = sponge M 136 0x1F 32) ∧
  (∀ (seed : List Byte) (N b32 b33 : Byte) (L : Nat), prfBytes seed N = sponge (seed ++ [N]) 136 0x1F 128 ∧
    xofBytes seed b32 b33 L = sponge (seed ++ [b32] ++ [b33]) 168 0x1F L)

/-- 41_keccak_sponge.md R133: XOF is the SHAKE128 sponge of ρ ∥ b32 ∥ b33, and its output bytes do not depend on the
length asked for. -/
def Obligations.XofOutputIsAStream : Prop :=
  ∀ (rhoSeed : List Byte) (b32 b33 : Byte) (L L' : Nat),
    xofBytes rhoSeed b32 b33 L = sponge (rhoSeed ++ [b32] ++ [b33]) 168 0x1F L ∧
    (L ≤ L' → xofBytes rhoSeed b32 b33 L = (xofBytes rhoSeed b32 b33 L').take L)

/-- 43_ntt.md R198: the round-trip law, both ways. -/
def Obligations.NttRoundTrip : Prop :=
  ∀ f : List Nat, f.length = 256 → canonical f = true → intt (ntt f) = f ∧ ntt (intt f) = f

/-- 43_ntt.md R190 with the constants of R192: entry 2i and 2i+1 of the transform are the coefficients of f reduced
modulo X² − GAMMAS[i]. -/
def Obligations.NttReducesModuloEachQuadratic : Prop :=
  ∀ f : List Nat, f.length = 256 → canonical f = true → ∀ i, i < 128 →
    (ntt f).getD (2 * i) 0 = (∑ j ∈ Finset.range 128, f.getD (2 * j) 0 * gammas.getD i 0 ^ j) % 3329 ∧
    (ntt f).getD (2 * i + 1) 0 = (∑ j ∈ Finset.range 128, f.getD (2 * j + 1) 0 * gammas.getD i 0 ^ j) % 3329

/-- 43_ntt.md R199: the multiplication law. -/
def Obligations.NttMultiplicationLaw : Prop :=
  ∀ a b : List Nat, a.length = 256 → b.length = 256 → canonical a = true → canonical b = true →
    basemul (ntt a) (ntt b) = ntt (negacyclic a b)

/-! ### The samplers, the codec and the KEM -/

/-- 44_samplers.md R230: `parse` gives the first 256 candidates below q, in stream order, and nothing while the stretch
it is given has fewer. -/
def Obligations.ParseTakesTheFirstAccepted : Prop :=
  ∀ S : List Byte, parse S =
    if 256 ≤ ((candidates S).filter (· < 3329)).length then some (((candidates S).filter (· < 3329)).take 256) else none

/-- 45_codec.md R250: ByteEncode bit by bit, and the byte formulas per group. -/
def Obligations.ByteEncodeLayout : Prop :=
  (∀ (d : Nat) (F : List Nat), d = 1 ∨ d = 4 ∨ d = 10 ∨ d = 12 → F.length = 256 → (∀ x ∈ F, x < 2 ^ d) →
    (byteEncode d F).length = 32 * d ∧
    ∀ n, n < 256 * d → streamBit (byteEncode d F) n = (F.getD (n / d) 0).testBit (n % d)) ∧
  (∀ F : List Nat, F.length = 256 → (∀ x ∈ F, x < 2 ^ 12) → ∀ g, g < 128 →
    let t0 := F.getD (2 * g) 0
    let t1 := F.getD (2 * g + 1) 0
    ((byteEncode 12 F).getD (3 * g) 0).toNat = t0 &&& 0xFF ∧
    ((byteEncode 12 F).getD (3 * g + 1) 0).toNat = (t0 >>> 8) ||| ((t1 &&& 0xF) <<< 4) ∧
    ((byteEncode 12 F).getD (3 * g + 2) 0).toNat = t1 >>> 4) ∧
  (∀ F : List Nat, F.length = 256 → (∀ x ∈ F, x < 2 ^ 10) → ∀ g, g < 64 →
    let t0 := F.getD (4 * g) 0
    let t1 := F.getD (4 * g + 1) 0
    let t2 := F.getD (4 * g + 2) 0
    let t3 := F.getD (4 * g + 3) 0
    ((byteEncode 10 F).getD (5 * g) 0).toNat = t0 &&& 0xFF ∧
    ((byteEncode 10 F).getD (5 * g + 1) 0).toNat = (t0 >>> 8) ||| ((t1 &&& 0x3F) <<< 2) ∧
    ((byteEncode 10 F).getD (5 * g + 2) 0).toNat = (t1 >>> 6) ||| ((t2 &&& 0xF) <<< 4) ∧
    ((byteEncode 10 F).getD (5 * g + 3) 0).toNat = (t2 >>> 4) ||| ((t3 &&& 0x3) <<< 6) ∧
    ((byteEncode 10 F).getD (5 * g + 4) 0).toNat = t3 >>> 2) ∧
  (∀ F : List Nat, F.length = 256 → (∀ x ∈ F, x < 2 ^ 4) → ∀ g, g < 128 →
    ((byteEncode 4 F).getD g 0).toNat = F.getD (2 * g) 0 ||| (F.getD (2 * g + 1) 0 <<< 4)) ∧
  (∀ F : List Nat, F.length = 256 → (∀ x ∈ F, x < 2) → ∀ g, g < 32 →
    ((byteEncode 1 F).getD g 0).toNat = ∑ j ∈ Finset.range 8, F.getD (8 * g + j) 0 <<< j)

/-- 45_codec.md R251, R257: ByteDecode bit by bit with no reduction; the 12-bit pair is a bijection; and the compression
error bound on the circle mod q. -/
def Obligations.CodecLaws : Prop :=
  (∀ (d : Nat) (B : List Byte), d = 1 ∨ d = 4 ∨ d = 10 ∨ d = 12 → B.length = 32 * d →
    (byteDecode d B).length = 256 ∧
    ∀ i, i < 256 →
      (byteDecode d B).getD i 0 = ∑ j ∈ Finset.range d, (streamBit B (i * d + j)).toNat * 2 ^ j) ∧
  (∀ p : List Nat, p.length = 256 → (∀ x ∈ p, x < 4096) → byteDecode 12 (byteEncode 12 p) = p) ∧
  (∀ B : List Byte, B.length = 384 → byteEncode 12 (byteDecode 12 B) = B) ∧
  (∀ x, x < 3329 →
    nearModQ x (decompress 10 (compress 10 x)) 2 ∧ nearModQ x (decompress 4 (compress 4 x)) 104 ∧
    nearModQ x (decompress 1 (compress 1 x)) 832)

/-- 45_codec.md R252, R253: Compress is x·2^d/q rounded to the nearest integer, mod 2^d; Decompress is y·q/2^d rounded to
the nearest, halves up, and canonical, with the largest values the rule names. -/
def Obligations.CompressionRounds : Prop :=
  ∀ d, d = 1 ∨ d = 4 ∨ d = 10 →
    (∀ x, x < 3329 → ∃ n, compress d x = n % 2 ^ d ∧
      2 * (x * 2 ^ d) < 2 * n * 3329 + 3329 ∧ 2 * n * 3329 < 2 * (x * 2 ^ d) + 3329) ∧
    (∀ y, y < 2 ^ d →
      2 * (y * 3329) < 2 * decompress d y * 2 ^ d + 2 ^ d ∧ 2 * decompress d y * 2 ^ d ≤ 2 * (y * 3329) + 2 ^ d ∧
      decompress d y ≤ decompress d (2 ^ d - 1)) ∧
    decompress 10 1023 = 3326 ∧ decompress 4 15 = 3121 ∧ decompress 1 1 = 1665

/-- 45_codec.md R254, R255, and R267's round trip: the message encoding is Decompress_1, the message bit is 1 exactly for
833 to 2496, equals Compress_1, is symmetric mod q and says which of (q+1)/2 and 0 is closer on the circle, and decoding an encoded message gives it back. -/
def Obligations.MessageCodec : Prop :=
  (∀ M : List Byte, M.length = 32 →
    encodeMsg M = (byteDecode 1 M).map (decompress 1) ∧
    (∀ i, i < 256 → (encodeMsg M).getD i 0 = 1665 * ((M.getD (i / 8) 0).getLsbD (i % 8)).toNat) ∧
    decodeMsg (encodeMsg M) = M) ∧
  (∀ x, x < 3329 →
    (msgBit x = 1 ↔ 833 ≤ x ∧ x ≤ 2496) ∧ (msgBit x = 0 ∨ msgBit x = 1) ∧ msgBit x = compress 1 x ∧
    msgBit x = msgBit ((3329 - x) % 3329) ∧
    (msgBit x = 1 ↔ ((x : Int) - 1665).natAbs < min x (3329 - x))) ∧
  (∀ F : List Nat, decodeMsg F = byteEncode 1 (F.map msgBit))

/-- 46_kem.md R290 to R294: KeyGen has a result exactly when its nine rejection loops have stopped; then ŝ and t̂ are the
values of its equations, coefficient by coefficient; the keys have their layout, and are inside the contracts of ENCAPS
and DECAPS: no 12-bit value of pk or sk is q or more. -/
def Obligations.KeygenKeysAreInContract : Prop :=
  (∀ (w : Nat) (d z : List Byte),
    (keyGen w d z).isSome = true ↔ ∃ A, MatrixOf w ((hashG (d ++ [0x03])).take 32) A) ∧
  (∀ (w : Nat) (d z pk sk : List Byte), keyGen w d z = some (pk, sk) → KeyGenEquations w d pk sk) ∧
  (∀ (w : Nat) (d z pk sk : List Byte), z.length = 32 → keyGen w d z = some (pk, sk) →
    pk.length = 1184 ∧ sk.length = 2400 ∧
    slice pk 1152 1184 = slice (hashG (d ++ [0x03])) 0 32 ∧
    slice sk 1152 2336 = pk ∧ slice sk 2336 2368 = hashH pk ∧ slice sk 2368 2400 = z ∧
    pkCanonical pk = true ∧ skCanonical sk = true)

/-- 46_kem.md R291 to R298, R303, R304: Encrypt has a result exactly when its nine rejection loops have stopped, and u, v
and the message bits are then the values of the equations of Encrypt and Decrypt, coefficient by coefficient; Encaps is
Encrypt with the second half of G(m ∥ H(pk)), and K the first. For an honest key pair and ciphertext, Decaps gives the
encapsulated secret, or Decrypt failed; and for any sk and ct, Decaps gives RejectHash(z ∥ ct) exactly as the
re-encryption says. -/
def Obligations.DecapsOfEncaps : Prop :=
  (∀ (w : Nat) (pk m r : List Byte),
    ((encrypt w pk m r).isSome = true ↔ ∃ A, MatrixOf w (slice pk 1152 1184) A) ∧
    ∀ ct, encrypt w pk m r = some ct → EncryptEquations w pk m r ct) ∧
  (∀ (w : Nat) (pk m : List Byte),
    encapsulate w pk m =
      (encrypt w pk m ((hashG (m ++ hashH pk)).drop 32)).map fun ct => (ct, (hashG (m ++ hashH pk)).take 32)) ∧
  (∀ sk ct : List Byte, DecryptEquations sk ct (decrypt sk ct)) ∧
  (∀ (rh : RejectHash) (w : Nat) (d z pk sk m ct K : List Byte), z.length = 32 →
    keyGen w d z = some (pk, sk) → encapsulate w pk m = some (ct, K) →
    decapsulate rh w sk ct = some K ∨ decrypt sk ct ≠ m) ∧
  (∀ (rh : RejectHash) (w : Nat) (sk ct ct' : List Byte),
    encrypt w (slice sk 1152 2336) (decrypt sk ct) (slice (hashG (decrypt sk ct ++ slice sk 2336 2368)) 32 64) =
      some ct' →
    decapsulate rh w sk ct = some
      (if ct' = ct then slice (hashG (decrypt sk ct ++ slice sk 2336 2368)) 0 32
       else match rh with
        | .sha3_256 => sponge (slice sk 2368 2400 ++ ct) 136 0x06 32
        | .shake256_32 => sponge (slice sk 2368 2400 ++ ct) 136 0x1F 32))
end

