-- ==== Sys2Proof/Laws/Bytes.lean ====
section
/-! SUPPORT. How long the byte strings and coefficient lists of the functions are, and the little-endian round trip. -/

namespace Sys2Proof

@[simp] theorem leBytes_length (n v : Nat) : (leBytes n v).length = n := by
  induction n generalizing v with
  | zero => rfl
  | succ n ih => simp [leBytes, ih]

/-- The bytes of a number stand for it, modulo their width. -/
theorem leNat_leBytes (n v : Nat) : leNat (leBytes n v) = v % 256 ^ n := by
  induction n generalizing v with
  | zero => simp [leBytes, leNat, Nat.mod_one]
  | succ n ih =>
    rw [leBytes, leNat, ih, BitVec.toNat_ofNat, Nat.pow_succ 256 n, Nat.mul_comm (256 ^ n) 256, Nat.mod_mul]

namespace Machine

@[simp] theorem lanesOf_length (f : Nat → Nat → Lane) : (lanesOf f).length = 25 := by simp [lanesOf]

@[simp] theorem iota_length (A : Lanes) (rc : Lane) : (iota A rc).length = 25 := by simp [iota]

theorem foldl_round_length (rcs : List Lane) (A : Lanes) (h : A.length = 25) :
    (rcs.foldl keccakRound A).length = 25 := by
  induction rcs generalizing A with
  | nil => exact h
  | cons rc rcs ih => exact ih _ (iota_length _ _)

theorem bytesOfLanes_length (A : Lanes) : (bytesOfLanes A).length = 8 * A.length := by
  induction A with
  | nil => rfl
  | cons v A ih =>
    have h : bytesOfLanes (v :: A) = leBytes 8 v.toNat ++ bytesOfLanes A := rfl
    rw [h, List.length_append, leBytes_length, ih, List.length_cons]
    omega

/-- The permutation gives 200 bytes. -/
@[simp] theorem keccakFBytes_length (S : List Byte) : (keccakFBytes S).length = 200 := by
  rw [keccakFBytes, bytesOfLanes_length, keccakF, foldl_round_length _ _ (by simp [lanesOfBytes])]

theorem xorInto_length (S B : List Byte) (h : B.length ≤ S.length) : (xorInto S B).length = S.length := by
  simp only [xorInto, List.length_append, List.length_zipWith, List.length_drop]
  omega

theorem absorb_length (r n : Nat) (P S : List Byte) (hS : S.length = 200) : (absorb r n P S).length = 200 := by
  induction n generalizing P S with
  | zero => exact hS
  | succ n ih => exact ih _ _ (keccakFBytes_length _)

theorem squeeze_length (r n need : Nat) (S : List Byte) (hr : 0 < r) (hr' : r ≤ 200) (hS : S.length = 200)
    (hn : need ≤ r * n) : (squeeze r n need S).length = need := by
  induction n generalizing need S with
  | zero => simp only [Nat.mul_zero, Nat.le_zero_eq] at hn; simp [squeeze, hn]
  | succ n ih =>
    rw [squeeze]
    split
    · rw [List.length_take]; omega
    · rw [Nat.mul_succ] at hn
      rw [List.length_append, List.length_take, ih _ _ (keccakFBytes_length _) (by omega)]
      omega

/-- A sponge gives as many bytes as it is asked for. -/
theorem sponge_length (M : List Byte) (r : Nat) (ds : Byte) (L : Nat) (hr : 0 < r) (hr' : r ≤ 200) :
    (sponge M r ds L).length = L := by
  refine squeeze_length r _ L _ hr hr' (absorb_length _ _ _ _ List.length_replicate) ?_
  rw [Nat.mul_succ]
  have := Nat.div_add_mod L r
  have := Nat.mod_lt L hr
  omega

@[simp] theorem hashH_length (M : List Byte) : (hashH M).length = 32 :=
  sponge_length _ _ _ _ (by decide) (by decide)
@[simp] theorem hashG_length (M : List Byte) : (hashG M).length = 64 :=
  sponge_length _ _ _ _ (by decide) (by decide)
@[simp] theorem prfBytes_length (seed : List Byte) (N : Byte) : (prfBytes seed N).length = 128 :=
  sponge_length _ _ _ _ (by decide) (by decide)
@[simp] theorem xofBytes_length (s : List Byte) (b32 b33 : Byte) (L : Nat) : (xofBytes s b32 b33 L).length = L :=
  sponge_length _ _ _ _ (by decide) (by decide)

@[simp] theorem cut_length (d n : Nat) (bs : List Bool) : (cut d n bs).length = n := by
  induction n generalizing bs with
  | zero => rfl
  | succ n ih => simp [cut, ih]

@[simp] theorem byteEncode_length (d : Nat) (F : List Nat) : (byteEncode d F).length = 32 * d := by
  simp [byteEncode]

@[simp] theorem byteDecode_length (d : Nat) (B : List Byte) : (byteDecode d B).length = 256 := by
  simp [byteDecode]

theorem cbd2_length (B : List Byte) : (cbd2 B).length = 2 * B.length := by
  induction B with
  | nil => rfl
  | cons b B ih =>
    have h : cbd2 (b :: B) = [cbdNibble b 0, cbdNibble b 1] ++ cbd2 B := rfl
    rw [h, List.length_append, ih, List.length_cons, List.length_cons, List.length_cons, List.length_nil]
    omega

theorem mulMod_lt (a b : Int) : mulMod a b < q := by
  have h1 := Int.emod_lt_of_pos (a * b) (by decide : (0 : Int) < (q : Int))
  have h2 := Int.emod_nonneg (a * b) (by decide : (q : Int) ≠ 0)
  simp only [mulMod]
  omega

theorem addQ_lt (a b : Nat) : addQ a b < q := Nat.mod_lt _ (by decide)

theorem subQ_lt (a b : Nat) : subQ a b < q := by
  have h1 := Int.emod_lt_of_pos ((a : Int) - b) (by decide : (0 : Int) < (q : Int))
  have h2 := Int.emod_nonneg ((a : Int) - b) (by decide : (q : Int) ≠ 0)
  simp only [subQ]
  omega

theorem fwdBlock_length (len zeta : Nat) (x : List Nat) (h : x.length = 2 * len) :
    (fwdBlock len zeta x).length = 2 * len := by
  simp only [fwdBlock, List.length_append, List.length_zipWith, List.length_take, List.length_map, List.length_drop]
  omega

theorem fwdLayer_length (len n i : Nat) (x : List Nat) (h : x.length = n * (2 * len)) :
    (fwdLayer len n i x).length = n * (2 * len) := by
  induction n generalizing i x with
  | zero => simp [fwdLayer]
  | succ n ih =>
    have hs := Nat.succ_mul n (2 * len)
    rw [hs] at h ⊢
    rw [fwdLayer, List.length_append, fwdBlock_length _ _ _ (by rw [List.length_take, h]; omega),
      ih _ _ (by rw [List.length_drop, h]; omega)]
    omega

theorem invBlock_length (len z : Nat) (x : List Nat) (h : x.length = 2 * len) :
    (invBlock len z x).length = 2 * len := by
  simp only [invBlock, List.length_append, List.length_zipWith, List.length_take, List.length_map, List.length_drop]
  omega

theorem invLayer_length (len n i : Nat) (x : List Nat) (h : x.length = n * (2 * len)) :
    (invLayer len n i x).length = n * (2 * len) := by
  induction n generalizing i x with
  | zero => simp [invLayer]
  | succ n ih =>
    have hs := Nat.succ_mul n (2 * len)
    rw [hs] at h ⊢
    rw [invLayer, List.length_append, invBlock_length _ _ _ (by rw [List.length_take, h]; omega),
      ih _ _ (by rw [List.length_drop, h]; omega)]
    omega

theorem ntt_length (f : List Nat) (h : f.length = 256) : (ntt f).length = 256 := by
  simp only [ntt, List.foldl_cons, List.foldl_nil]
  repeat refine fwdLayer_length _ _ _ _ ?_
  exact h

theorem intt_length (f : List Nat) (h : f.length = 256) : (intt f).length = 256 := by
  simp only [intt, List.foldl_cons, List.foldl_nil, List.length_map]
  repeat refine invLayer_length _ _ _ _ ?_
  exact h

end Machine

end Sys2Proof
end

