-- ==== Sys2Proof/Laws/FastKeccak.lean ====
section
/-! SUPPORT. The Keccak permutation in a form that the kernel evaluates fast, proved equal to the model's, and the count
of accepted candidates of a XOF stream: what the witnesses of the rejection sampler are checked with. -/

namespace Sys2Proof.Machine

/-- Evaluate a lane before it is used. -/
def forceLane {α : Type} (v : Lane) (k : Lane → α) : α :=
  match v.toNat with
  | 0 => k 0#64
  | n + 1 => k (BitVec.ofNat 64 (n + 1))

theorem forceLane_eq {α : Type} (v : Lane) (k : Lane → α) : forceLane v k = k v := by
  have h : BitVec.ofNat 64 v.toNat = v := by simp
  unfold forceLane
  split <;> rename_i hn <;> rw [hn] at h <;> rw [← h]

/-- Evaluate the bytes of a string before it is used. -/
def forceBytes {α : Type} : List Byte → (List Byte → α) → α
  | [], k => k []
  | b :: B, k =>
    match b.toNat with
    | 0 => forceBytes B fun l => k (0#8 :: l)
    | n + 1 => forceBytes B fun l => k (BitVec.ofNat 8 (n + 1) :: l)

theorem forceBytes_eq {α : Type} (B : List Byte) (k : List Byte → α) : forceBytes B k = k B := by
  induction B generalizing k with
  | nil => rfl
  | cons b B ih =>
    have h : BitVec.ofNat 8 b.toNat = b := by simp
    unfold forceBytes
    split <;> rename_i hn <;> rw [hn] at h <;> rw [ih, ← h]

/-- Left rotation of a lane by a fixed amount below 64. -/
def rotBy (v : Lane) (n : Nat) : Lane := v <<< n ||| v >>> (64 - n)

/-- One round, lane by lane, each lane evaluated once. -/
def fastRound (A : Lanes) (rc : Lane) : Lanes :=
  match A with
  | [a0, a1, a2, a3, a4, a5, a6, a7, a8, a9, a10, a11, a12, a13, a14, a15, a16, a17, a18, a19, a20, a21, a22, a23, a24] =>
    forceLane (a0 ^^^ a5 ^^^ a10 ^^^ a15 ^^^ a20) fun c0 =>
    forceLane (a1 ^^^ a6 ^^^ a11 ^^^ a16 ^^^ a21) fun c1 =>
    forceLane (a2 ^^^ a7 ^^^ a12 ^^^ a17 ^^^ a22) fun c2 =>
    forceLane (a3 ^^^ a8 ^^^ a13 ^^^ a18 ^^^ a23) fun c3 =>
    forceLane (a4 ^^^ a9 ^^^ a14 ^^^ a19 ^^^ a24) fun c4 =>
    forceLane (c4 ^^^ rotBy c1 1) fun d0 =>
    forceLane (c0 ^^^ rotBy c2 1) fun d1 =>
    forceLane (c1 ^^^ rotBy c3 1) fun d2 =>
    forceLane (c2 ^^^ rotBy c4 1) fun d3 =>
    forceLane (c3 ^^^ rotBy c0 1) fun d4 =>
    forceLane (a0 ^^^ d0) fun b0 =>
    forceLane (rotBy (a6 ^^^ d1) 44) fun b1 =>
    forceLane (rotBy (a12 ^^^ d2) 43) fun b2 =>
    forceLane (rotBy (a18 ^^^ d3) 21) fun b3 =>
    forceLane (rotBy (a24 ^^^ d4) 14) fun b4 =>
    forceLane (rotBy (a3 ^^^ d3) 28) fun b5 =>
    forceLane (rotBy (a9 ^^^ d4) 20) fun b6 =>
    forceLane (rotBy (a10 ^^^ d0) 3) fun b7 =>
    forceLane (rotBy (a16 ^^^ d1) 45) fun b8 =>
    forceLane (rotBy (a22 ^^^ d2) 61) fun b9 =>
    forceLane (rotBy (a1 ^^^ d1) 1) fun b10 =>
    forceLane (rotBy (a7 ^^^ d2) 6) fun b11 =>
    forceLane (rotBy (a13 ^^^ d3) 25) fun b12 =>
    forceLane (rotBy (a19 ^^^ d4) 8) fun b13 =>
    forceLane (rotBy (a20 ^^^ d0) 18) fun b14 =>
    forceLane (rotBy (a4 ^^^ d4) 27) fun b15 =>
    forceLane (rotBy (a5 ^^^ d0) 36) fun b16 =>
    forceLane (rotBy (a11 ^^^ d1) 10) fun b17 =>
    forceLane (rotBy (a17 ^^^ d2) 15) fun b18 =>
    forceLane (rotBy (a23 ^^^ d3) 56) fun b19 =>
    forceLane (rotBy (a2 ^^^ d2) 62) fun b20 =>
    forceLane (rotBy (a8 ^^^ d3) 55) fun b21 =>
    forceLane (rotBy (a14 ^^^ d4) 39) fun b22 =>
    forceLane (rotBy (a15 ^^^ d0) 41) fun b23 =>
    forceLane (rotBy (a21 ^^^ d1) 2) fun b24 =>
    forceLane ((b0 ^^^ (~~~b1 &&& b2)) ^^^ rc) fun e0 =>
    forceLane (b1 ^^^ (~~~b2 &&& b3)) fun e1 =>
    forceLane (b2 ^^^ (~~~b3 &&& b4)) fun e2 =>
    forceLane (b3 ^^^ (~~~b4 &&& b0)) fun e3 =>
    forceLane (b4 ^^^ (~~~b0 &&& b1)) fun e4 =>
    forceLane (b5 ^^^ (~~~b6 &&& b7)) fun e5 =>
    forceLane (b6 ^^^ (~~~b7 &&& b8)) fun e6 =>
    forceLane (b7 ^^^ (~~~b8 &&& b9)) fun e7 =>
    forceLane (b8 ^^^ (~~~b9 &&& b5)) fun e8 =>
    forceLane (b9 ^^^ (~~~b5 &&& b6)) fun e9 =>
    forceLane (b10 ^^^ (~~~b11 &&& b12)) fun e10 =>
    forceLane (b11 ^^^ (~~~b12 &&& b13)) fun e11 =>
    forceLane (b12 ^^^ (~~~b13 &&& b14)) fun e12 =>
    forceLane (b13 ^^^ (~~~b14 &&& b10)) fun e13 =>
    forceLane (b14 ^^^ (~~~b10 &&& b11)) fun e14 =>
    forceLane (b15 ^^^ (~~~b16 &&& b17)) fun e15 =>
    forceLane (b16 ^^^ (~~~b17 &&& b18)) fun e16 =>
    forceLane (b17 ^^^ (~~~b18 &&& b19)) fun e17 =>
    forceLane (b18 ^^^ (~~~b19 &&& b15)) fun e18 =>
    forceLane (b19 ^^^ (~~~b15 &&& b16)) fun e19 =>
    forceLane (b20 ^^^ (~~~b21 &&& b22)) fun e20 =>
    forceLane (b21 ^^^ (~~~b22 &&& b23)) fun e21 =>
    forceLane (b22 ^^^ (~~~b23 &&& b24)) fun e22 =>
    forceLane (b23 ^^^ (~~~b24 &&& b20)) fun e23 =>
    forceLane (b24 ^^^ (~~~b20 &&& b21)) fun e24 =>
    [e0, e1, e2, e3, e4, e5, e6, e7, e8, e9, e10, e11, e12, e13, e14, e15, e16, e17, e18, e19, e20, e21, e22, e23, e24]
  | _ => keccakRound A rc

theorem rotl64_zero (v : Lane) : rotl64 v 0 = v := by
  have h : v >>> 64 = 0#64 := BitVec.eq_of_toNat_eq (by simp [Nat.shiftRight_eq_div_pow, Nat.div_eq_of_lt v.isLt])
  simp [rotl64, BitVec.rotateLeft_eq_rotateLeftAux_of_lt, BitVec.rotateLeftAux, h]

theorem theta_list (a0 a1 a2 a3 a4 a5 a6 a7 a8 a9 a10 a11 a12 a13 a14 a15 a16 a17 a18 a19 a20 a21 a22 a23 a24 : Lane) :
    theta [a0, a1, a2, a3, a4, a5, a6, a7, a8, a9, a10, a11, a12, a13, a14, a15, a16, a17, a18, a19, a20, a21, a22, a23, a24] =
      [a0 ^^^ (a4 ^^^ a9 ^^^ a14 ^^^ a19 ^^^ a24 ^^^ rotBy (a1 ^^^ a6 ^^^ a11 ^^^ a16 ^^^ a21) 1),
       a1 ^^^ (a0 ^^^ a5 ^^^ a10 ^^^ a15 ^^^ a20 ^^^ rotBy (a2 ^^^ a7 ^^^ a12 ^^^ a17 ^^^ a22) 1),
       a2 ^^^ (a1 ^^^ a6 ^^^ a11 ^^^ a16 ^^^ a21 ^^^ rotBy (a3 ^^^ a8 ^^^ a13 ^^^ a18 ^^^ a23) 1),
       a3 ^^^ (a2 ^^^ a7 ^^^ a12 ^^^ a17 ^^^ a22 ^^^ rotBy (a4 ^^^ a9 ^^^ a14 ^^^ a19 ^^^ a24) 1),
       a4 ^^^ (a3 ^^^ a8 ^^^ a13 ^^^ a18 ^^^ a23 ^^^ rotBy (a0 ^^^ a5 ^^^ a10 ^^^ a15 ^^^ a20) 1),
       a5 ^^^ (a4 ^^^ a9 ^^^ a14 ^^^ a19 ^^^ a24 ^^^ rotBy (a1 ^^^ a6 ^^^ a11 ^^^ a16 ^^^ a21) 1),
       a6 ^^^ (a0 ^^^ a5 ^^^ a10 ^^^ a15 ^^^ a20 ^^^ rotBy (a2 ^^^ a7 ^^^ a12 ^^^ a17 ^^^ a22) 1),
       a7 ^^^ (a1 ^^^ a6 ^^^ a11 ^^^ a16 ^^^ a21 ^^^ rotBy (a3 ^^^ a8 ^^^ a13 ^^^ a18 ^^^ a23) 1),
       a8 ^^^ (a2 ^^^ a7 ^^^ a12 ^^^ a17 ^^^ a22 ^^^ rotBy (a4 ^^^ a9 ^^^ a14 ^^^ a19 ^^^ a24) 1),
       a9 ^^^ (a3 ^^^ a8 ^^^ a13 ^^^ a18 ^^^ a23 ^^^ rotBy (a0 ^^^ a5 ^^^ a10 ^^^ a15 ^^^ a20) 1),
       a10 ^^^ (a4 ^^^ a9 ^^^ a14 ^^^ a19 ^^^ a24 ^^^ rotBy (a1 ^^^ a6 ^^^ a11 ^^^ a16 ^^^ a21) 1),
       a11 ^^^ (a0 ^^^ a5 ^^^ a10 ^^^ a15 ^^^ a20 ^^^ rotBy (a2 ^^^ a7 ^^^ a12 ^^^ a17 ^^^ a22) 1),
       a12 ^^^ (a1 ^^^ a6 ^^^ a11 ^^^ a16 ^^^ a21 ^^^ rotBy (a3 ^^^ a8 ^^^ a13 ^^^ a18 ^^^ a23) 1),
       a13 ^^^ (a2 ^^^ a7 ^^^ a12 ^^^ a17 ^^^ a22 ^^^ rotBy (a4 ^^^ a9 ^^^ a14 ^^^ a19 ^^^ a24) 1),
       a14 ^^^ (a3 ^^^ a8 ^^^ a13 ^^^ a18 ^^^ a23 ^^^ rotBy (a0 ^^^ a5 ^^^ a10 ^^^ a15 ^^^ a20) 1),
       a15 ^^^ (a4 ^^^ a9 ^^^ a14 ^^^ a19 ^^^ a24 ^^^ rotBy (a1 ^^^ a6 ^^^ a11 ^^^ a16 ^^^ a21) 1),
       a16 ^^^ (a0 ^^^ a5 ^^^ a10 ^^^ a15 ^^^ a20 ^^^ rotBy (a2 ^^^ a7 ^^^ a12 ^^^ a17 ^^^ a22) 1),
       a17 ^^^ (a1 ^^^ a6 ^^^ a11 ^^^ a16 ^^^ a21 ^^^ rotBy (a3 ^^^ a8 ^^^ a13 ^^^ a18 ^^^ a23) 1),
       a18 ^^^ (a2 ^^^ a7 ^^^ a12 ^^^ a17 ^^^ a22 ^^^ rotBy (a4 ^^^ a9 ^^^ a14 ^^^ a19 ^^^ a24) 1),
       a19 ^^^ (a3 ^^^ a8 ^^^ a13 ^^^ a18 ^^^ a23 ^^^ rotBy (a0 ^^^ a5 ^^^ a10 ^^^ a15 ^^^ a20) 1),
       a20 ^^^ (a4 ^^^ a9 ^^^ a14 ^^^ a19 ^^^ a24 ^^^ rotBy (a1 ^^^ a6 ^^^ a11 ^^^ a16 ^^^ a21) 1),
       a21 ^^^ (a0 ^^^ a5 ^^^ a10 ^^^ a15 ^^^ a20 ^^^ rotBy (a2 ^^^ a7 ^^^ a12 ^^^ a17 ^^^ a22) 1),
       a22 ^^^ (a1 ^^^ a6 ^^^ a11 ^^^ a16 ^^^ a21 ^^^ rotBy (a3 ^^^ a8 ^^^ a13 ^^^ a18 ^^^ a23) 1),
       a23 ^^^ (a2 ^^^ a7 ^^^ a12 ^^^ a17 ^^^ a22 ^^^ rotBy (a4 ^^^ a9 ^^^ a14 ^^^ a19 ^^^ a24) 1),
       a24 ^^^ (a3 ^^^ a8 ^^^ a13 ^^^ a18 ^^^ a23 ^^^ rotBy (a0 ^^^ a5 ^^^ a10 ^^^ a15 ^^^ a20) 1)] := rfl

theorem rho_list (a0 a1 a2 a3 a4 a5 a6 a7 a8 a9 a10 a11 a12 a13 a14 a15 a16 a17 a18 a19 a20 a21 a22 a23 a24 : Lane) :
    rho [a0, a1, a2, a3, a4, a5, a6, a7, a8, a9, a10, a11, a12, a13, a14, a15, a16, a17, a18, a19, a20, a21, a22, a23, a24] =
      [a0, rotBy a1 1, rotBy a2 62, rotBy a3 28, rotBy a4 27, rotBy a5 36, rotBy a6 44, rotBy a7 6, rotBy a8 55, rotBy a9 20, rotBy a10 3, rotBy a11 10, rotBy a12 43, rotBy a13 25, rotBy a14 39, rotBy a15 41, rotBy a16 45, rotBy a17 15, rotBy a18 21, rotBy a19 8, rotBy a20 18, rotBy a21 2, rotBy a22 61, rotBy a23 56, rotBy a24 14] := by
  have h : rho [a0, a1, a2, a3, a4, a5, a6, a7, a8, a9, a10, a11, a12, a13, a14, a15, a16, a17, a18, a19, a20, a21, a22, a23, a24] = [rotl64 a0 0, rotBy a1 1, rotBy a2 62, rotBy a3 28, rotBy a4 27, rotBy a5 36, rotBy a6 44, rotBy a7 6, rotBy a8 55, rotBy a9 20, rotBy a10 3, rotBy a11 10, rotBy a12 43, rotBy a13 25, rotBy a14 39, rotBy a15 41, rotBy a16 45, rotBy a17 15, rotBy a18 21, rotBy a19 8, rotBy a20 18, rotBy a21 2, rotBy a22 61, rotBy a23 56, rotBy a24 14] := rfl
  rw [h, rotl64_zero]

theorem piStep_list (a0 a1 a2 a3 a4 a5 a6 a7 a8 a9 a10 a11 a12 a13 a14 a15 a16 a17 a18 a19 a20 a21 a22 a23 a24 : Lane) :
    piStep [a0, a1, a2, a3, a4, a5, a6, a7, a8, a9, a10, a11, a12, a13, a14, a15, a16, a17, a18, a19, a20, a21, a22, a23, a24] = [a0, a6, a12, a18, a24, a3, a9, a10, a16, a22, a1, a7, a13, a19, a20, a4, a5, a11, a17, a23, a2, a8, a14, a15, a21] := rfl

theorem chi_list (a0 a1 a2 a3 a4 a5 a6 a7 a8 a9 a10 a11 a12 a13 a14 a15 a16 a17 a18 a19 a20 a21 a22 a23 a24 : Lane) :
    chi [a0, a1, a2, a3, a4, a5, a6, a7, a8, a9, a10, a11, a12, a13, a14, a15, a16, a17, a18, a19, a20, a21, a22, a23, a24] =
      [a0 ^^^ (~~~a1 &&& a2),
       a1 ^^^ (~~~a2 &&& a3),
       a2 ^^^ (~~~a3 &&& a4),
       a3 ^^^ (~~~a4 &&& a0),
       a4 ^^^ (~~~a0 &&& a1),
       a5 ^^^ (~~~a6 &&& a7),
       a6 ^^^ (~~~a7 &&& a8),
       a7 ^^^ (~~~a8 &&& a9),
       a8 ^^^ (~~~a9 &&& a5),
       a9 ^^^ (~~~a5 &&& a6),
       a10 ^^^ (~~~a11 &&& a12),
       a11 ^^^ (~~~a12 &&& a13),
       a12 ^^^ (~~~a13 &&& a14),
       a13 ^^^ (~~~a14 &&& a10),
       a14 ^^^ (~~~a10 &&& a11),
       a15 ^^^ (~~~a16 &&& a17),
       a16 ^^^ (~~~a17 &&& a18),
       a17 ^^^ (~~~a18 &&& a19),
       a18 ^^^ (~~~a19 &&& a15),
       a19 ^^^ (~~~a15 &&& a16),
       a20 ^^^ (~~~a21 &&& a22),
       a21 ^^^ (~~~a22 &&& a23),
       a22 ^^^ (~~~a23 &&& a24),
       a23 ^^^ (~~~a24 &&& a20),
       a24 ^^^ (~~~a20 &&& a21)] := rfl

theorem iota_list (a0 a1 a2 a3 a4 a5 a6 a7 a8 a9 a10 a11 a12 a13 a14 a15 a16 a17 a18 a19 a20 a21 a22 a23 a24 : Lane) (rc : Lane) :
    iota [a0, a1, a2, a3, a4, a5, a6, a7, a8, a9, a10, a11, a12, a13, a14, a15, a16, a17, a18, a19, a20, a21, a22, a23, a24] rc = [a0 ^^^ rc, a1, a2, a3, a4, a5, a6, a7, a8, a9, a10, a11, a12, a13, a14, a15, a16, a17, a18, a19, a20, a21, a22, a23, a24] := rfl

theorem fastRound_eq (A : Lanes) (rc : Lane) : fastRound A rc = keccakRound A rc := by
  unfold fastRound
  split
  · simp only [forceLane_eq, keccakRound, theta_list, rho_list, piStep_list, chi_list, iota_list]
  · rfl


/-- Keccak-f[1600] on fast rounds. -/
def fastKeccak (A : Lanes) : Lanes := keccakRc.foldl fastRound A

theorem fastKeccak_eq (A : Lanes) : fastKeccak A = keccakF A := by
  have h : fastRound = keccakRound := funext fun A => funext fun rc => fastRound_eq A rc
  rw [fastKeccak, h, keccakF]

/-- The permutation on byte strings, on fast rounds. -/
def fastKeccakBytes (S : List Byte) : List Byte := bytesOfLanes (fastKeccak (lanesOfBytes S))

theorem fastKeccakBytes_eq (S : List Byte) : fastKeccakBytes S = keccakFBytes S := by
  rw [fastKeccakBytes, fastKeccak_eq, keccakFBytes]

/-- 0 or 1: a candidate is accepted. -/
def acceptOne (d : Nat) : Nat := if d < q then 1 else 0

/-- How many candidates of a byte string are below q. -/
def accepted : List Byte → Nat
  | b0 :: b1 :: b2 :: S =>
    acceptOne (b0.toNat + 256 * (b1.toNat % 16)) + acceptOne (b1.toNat / 16 + 16 * b2.toNat) + accepted S
  | _ => 0

/-- How many candidates of the first `n` windows squeezed from a state are below q. -/
def acceptedWindows : Nat → List Byte → Nat
  | 0, _ => 0
  | n + 1, S => forceBytes S fun S => accepted (S.take 168) + acceptedWindows n (fastKeccakBytes S)


theorem accepted_append (S T : List Byte) (n : Nat) (h : S.length = 3 * n) :
    accepted (S ++ T) = accepted S + accepted T := by
  induction n generalizing S with
  | zero => rw [List.length_eq_zero_iff.mp h]; simp [accepted]
  | succ n ih =>
    match S, h with
    | b0 :: b1 :: b2 :: S, h =>
      simp only [List.length_cons] at h
      simp only [List.cons_append, accepted, ih S (by omega)]
      omega

theorem accept_length (f : List Nat) (d : Nat) (h : f.length ≤ 256) :
    (accept f d).length = min 256 (f.length + acceptOne d) := by
  unfold accept acceptOne
  by_cases hd : d < q <;> by_cases hf : f.length < 256 <;> simp [hd, hf] <;> omega

/-- The loop accepts as many candidates as there are, up to 256. -/
theorem parseLoop_length (S : List Byte) (f : List Nat) (h : f.length ≤ 256) :
    (parseLoop S f).length = min 256 (f.length + accepted S) := by
  induction S, f using parseLoop.induct with
  | case1 b0 b1 b2 S f d1 d2 hf ih =>
    have h1 := accept_length f d1 h
    have h2 := accept_length (accept f d1) d2 (by omega)
    rw [parseLoop, if_pos hf, ih (by omega), h2, h1, accepted]
    simp only [d1, d2]
    omega
  | case2 b0 b1 b2 S f hf =>
    rw [parseLoop, if_neg hf]
    omega
  | case3 S f hS =>
    rw [parseLoop, accepted]
    · omega
    · exact hS
    · exact hS

/-- A stretch with 256 acceptable candidates is enough for `parse`. -/
theorem parse_isSome {S : List Byte} (h : 256 ≤ accepted S) : (parse S).isSome = true := by
  have hl := parseLoop_length S [] (Nat.zero_le _)
  rw [List.length_nil] at hl
  simp only [parse, if_pos (show (parseLoop S []).length = 256 by omega), Option.isSome_some]

theorem acceptedWindows_le (n w : Nat) (S : List Byte) (hS : S.length = 200) (hn : n ≤ w) :
    ∀ m, w ≤ m → acceptedWindows n S ≤ accepted (squeeze 168 m (168 * w) S) := by
  induction n generalizing w S with
  | zero => intros; exact Nat.zero_le _
  | succ n ih =>
    intro m hm
    obtain ⟨w, rfl⟩ : ∃ w', w = w' + 1 := ⟨w - 1, by omega⟩
    obtain ⟨m, rfl⟩ : ∃ m', m = m' + 1 := ⟨m - 1, by omega⟩
    rw [acceptedWindows, forceBytes_eq, squeeze, fastKeccakBytes_eq]
    have hk := keccakFBytes_length S
    by_cases hw : w = 0
    · subst hw
      obtain rfl : n = 0 := by omega
      simp [acceptedWindows]
    · rw [if_neg (by omega), accepted_append _ _ 56 (by rw [List.length_take]; omega)]
      have := ih w (keccakFBytes S) hk (by omega) m (by omega)
      rw [show 168 * (w + 1) - 168 = 168 * w by omega]
      omega

/-- The state bytes after absorbing a message of less than one block, in the fast form. -/
theorem absorbed_short (M : List Byte) (r : Nat) (ds : Byte) (h : M.length < r) :
    absorbed M r ds = fastKeccakBytes (xorInto (List.replicate 200 0) ((padded M r ds).take r)) := by
  rw [absorbed, Nat.div_eq_of_lt h, absorb, absorb, fastKeccakBytes_eq]

/-- A sponge with one block in and one block out, in the fast form. -/
theorem sponge_short (M : List Byte) (r : Nat) (ds : Byte) (L : Nat) (h : M.length < r) (hL : L ≤ r) :
    sponge M r ds L = (fastKeccakBytes (xorInto (List.replicate 200 0) ((padded M r ds).take r))).take L := by
  rw [sponge, squeeze, if_pos hL, absorbed_short M r ds h]

/-- A sponge with two blocks in and one block out, in the fast form. -/
theorem sponge_twoBlocks (M : List Byte) (r : Nat) (ds : Byte) (L : Nat) (h : M.length / r = 1) (hL : L ≤ r) :
    sponge M r ds L =
      forceBytes (fastKeccakBytes (xorInto (List.replicate 200 0) ((padded M r ds).take r))) fun S =>
        (fastKeccakBytes (xorInto S (((padded M r ds).drop r).take r))).take L := by
  rw [forceBytes_eq, sponge, squeeze, if_pos hL, absorbed, h, absorb, absorb, absorb, fastKeccakBytes_eq,
    fastKeccakBytes_eq]

/-- `squeeze` with each state evaluated once, on fast rounds. -/
def fastSqueeze (r : Nat) : Nat → Nat → List Byte → List Byte
  | 0, _, _ => []
  | n + 1, need, S =>
    forceBytes S fun S =>
      if need ≤ r then S.take need else S.take r ++ fastSqueeze r n (need - r) (fastKeccakBytes S)

theorem fastSqueeze_eq (r n need : Nat) (S : List Byte) : fastSqueeze r n need S = squeeze r n need S := by
  induction n generalizing need S with
  | zero => rfl
  | succ n ih => rw [fastSqueeze, forceBytes_eq, squeeze, ih, fastKeccakBytes_eq]

/-- A sponge with one block in and any number out, in the fast form. -/
theorem sponge_oneIn (M : List Byte) (r : Nat) (ds : Byte) (L : Nat) (h : M.length < r) :
    sponge M r ds L = fastSqueeze r (L / r + 1) L
      (fastKeccakBytes (xorInto (List.replicate 200 0) ((padded M r ds).take r))) := by
  rw [sponge, fastSqueeze_eq, absorbed_short M r ds h]

/-- The rejection sampler has stopped within `w` windows, checked on the first `n` of them. -/
theorem sampleNtt_isSome {n w : Nat} {rhoSeed : List Byte} {b32 b33 : Byte} (hl : rhoSeed.length = 32) (hn : n ≤ w)
    (h : 256 ≤ acceptedWindows n
      (fastKeccakBytes (xorInto (List.replicate 200 0) ((padded (rhoSeed ++ [b32, b33]) 168 0x1F).take 168)))) :
    (sampleNtt w rhoSeed b32 b33).isSome = true := by
  rw [← absorbed_short _ _ _ (by simp [hl])] at h
  refine parse_isSome (Nat.le_trans h ?_)
  refine acceptedWindows_le n w _ (absorb_length _ _ _ _ List.length_replicate) hn _ ?_
  rw [Nat.mul_div_cancel_left w (by decide)]
  omega

end Sys2Proof.Machine
end

