-- ==== Sys2Proof/Laws/Sparse.lean ====
section
/-! SUPPORT. Sparse files: reading after writing, and that writing keeps the canonical form. -/

namespace Sys2Proof.Machine

variable {β : Type}

@[simp] theorem lookup_nil (a : Nat) : lookup a ([] : List (Nat × β)) = none := rfl

@[simp] theorem lookup_store_same (a : Nat) (v : β) (m : List (Nat × β)) : lookup a (store a v m) = some v := by
  induction m with
  | nil => simp [store, lookup]
  | cons e m ih =>
    obtain ⟨k, w⟩ := e
    simp only [store]
    split
    · simp [lookup]
    · split
      · simp [lookup]
      · have hk : k ≠ a := by omega
        simp [lookup, hk, ih]

theorem lookup_store_other {a b : Nat} (v : β) (m : List (Nat × β)) (h : b ≠ a) :
    lookup b (store a v m) = lookup b m := by
  have h' : a ≠ b := Ne.symm h
  induction m with
  | nil => simp [store, lookup, h']
  | cons e m ih =>
    obtain ⟨k, w⟩ := e
    simp only [store]
    split
    · simp [lookup, h']
    · split
      · next hk => subst hk; simp [lookup, h']
      · simp only [lookup, ih]

theorem lookup_store (a b : Nat) (v : β) (m : List (Nat × β)) :
    lookup b (store a v m) = if b = a then some v else lookup b m := by
  split
  · next h => subst h; exact lookup_store_same b v m
  · next h => exact lookup_store_other v m h

/-- The keys of a file after a write are the old ones and the new one. -/
theorem mem_keys_store {a k : Nat} {v : β} {m : List (Nat × β)} :
    k ∈ (store a v m).map Prod.fst → k = a ∨ k ∈ m.map Prod.fst := by
  induction m with
  | nil => simp [store]
  | cons e m ih =>
    obtain ⟨j, w⟩ := e
    simp only [store]
    split
    · simp
    · split
      · simp only [List.map_cons, List.mem_cons]
        rintro (h | h)
        · exact .inl h
        · exact .inr (.inr h)
      · simp only [List.map_cons, List.mem_cons]
        rintro (h | h)
        · exact .inr (.inl h)
        · rcases ih h with h | h
          · exact .inl h
          · exact .inr (.inr h)

/-- A write keeps the canonical form. -/
theorem store_wf {a : Nat} {v : β} {m : List (Nat × β)} (h : Sparse.wf m) : Sparse.wf (store a v m) := by
  induction m with
  | nil => simp [store, Sparse.wf]
  | cons e m ih =>
    obtain ⟨k, w⟩ := e
    simp only [Sparse.wf, List.map_cons, List.pairwise_cons] at h
    obtain ⟨hk, hm⟩ := h
    simp only [store]
    split
    · next hak =>
      simp only [Sparse.wf, List.map_cons, List.pairwise_cons, List.mem_cons]
      refine ⟨?_, hk, hm⟩
      rintro j (rfl | hj)
      · exact hak
      · exact Nat.lt_trans hak (hk j hj)
    · split
      · next hak =>
        subst hak
        simp only [Sparse.wf, List.map_cons, List.pairwise_cons]
        exact ⟨hk, hm⟩
      · simp only [Sparse.wf, List.map_cons, List.pairwise_cons]
        refine ⟨fun j hj => ?_, ih hm⟩
        rcases mem_keys_store hj with rfl | hj
        · omega
        · exact hk j hj

end Sys2Proof.Machine
end

