-- ==== Sys2Proof/Laws/State.lean ====
section
/-! SUPPORT. One lemma per field per update of the state, so that no proof unfolds a record update. -/

namespace Sys2Proof.Machine

/-! ### writeByte -/

@[simp] theorem State.writeByte_params (s : State) (a : Nat) (v : Byte) : (s.writeByte a v).params = s.params := rfl
@[simp] theorem State.writeByte_ie (s : State) (a : Nat) (v : Byte) : (s.writeByte a v).ie = s.ie := rfl
@[simp] theorem State.writeByte_done (s : State) (a : Nat) (v : Byte) : (s.writeByte a v).done = s.done := rfl
@[simp] theorem State.writeByte_err (s : State) (a : Nat) (v : Byte) : (s.writeByte a v).err = s.err := rfl
@[simp] theorem State.writeByte_overrun (s : State) (a : Nat) (v : Byte) : (s.writeByte a v).overrun = s.overrun := rfl
@[simp] theorem State.writeByte_errcode (s : State) (a : Nat) (v : Byte) : (s.writeByte a v).errcode = s.errcode := rfl
@[simp] theorem State.writeByte_args (s : State) (a : Nat) (v : Byte) : (s.writeByte a v).args = s.args := rfl
@[simp] theorem State.writeByte_result (s : State) (a : Nat) (v : Byte) : (s.writeByte a v).result = s.result := rfl
@[simp] theorem State.writeByte_pending (s : State) (a : Nat) (v : Byte) : (s.writeByte a v).pending = s.pending := rfl
@[simp] theorem State.writeByte_mem (s : State) (a : Nat) (v : Byte) : (s.writeByte a v).mem = store a v s.mem := rfl
@[simp] theorem State.writeByte_memDraw (s : State) (a : Nat) (v : Byte) : (s.writeByte a v).memDraw = s.memDraw := rfl
@[simp] theorem State.writeByte_pregs (s : State) (a : Nat) (v : Byte) : (s.writeByte a v).pregs = s.pregs := rfl
@[simp] theorem State.writeByte_pregDraw (s : State) (a : Nat) (v : Byte) : (s.writeByte a v).pregDraw = s.pregDraw := rfl
@[simp] theorem State.writeByte_draws (s : State) (a : Nat) (v : Byte) : (s.writeByte a v).draws = s.draws := rfl
@[simp] theorem State.writeByte_readData (s : State) (a : Nat) (v : Byte) : (s.writeByte a v).readData = s.readData := rfl
@[simp] theorem State.writeByte_agenda (s : State) (a : Nat) (v : Byte) : (s.writeByte a v).agenda = s.agenda := rfl

/-! ### setPreg -/

@[simp] theorem State.setPreg_params (s : State) (r : Nat) (f : Poly) : (s.setPreg r f).params = s.params := rfl
@[simp] theorem State.setPreg_ie (s : State) (r : Nat) (f : Poly) : (s.setPreg r f).ie = s.ie := rfl
@[simp] theorem State.setPreg_done (s : State) (r : Nat) (f : Poly) : (s.setPreg r f).done = s.done := rfl
@[simp] theorem State.setPreg_err (s : State) (r : Nat) (f : Poly) : (s.setPreg r f).err = s.err := rfl
@[simp] theorem State.setPreg_overrun (s : State) (r : Nat) (f : Poly) : (s.setPreg r f).overrun = s.overrun := rfl
@[simp] theorem State.setPreg_errcode (s : State) (r : Nat) (f : Poly) : (s.setPreg r f).errcode = s.errcode := rfl
@[simp] theorem State.setPreg_args (s : State) (r : Nat) (f : Poly) : (s.setPreg r f).args = s.args := rfl
@[simp] theorem State.setPreg_result (s : State) (r : Nat) (f : Poly) : (s.setPreg r f).result = s.result := rfl
@[simp] theorem State.setPreg_pending (s : State) (r : Nat) (f : Poly) : (s.setPreg r f).pending = s.pending := rfl
@[simp] theorem State.setPreg_mem (s : State) (r : Nat) (f : Poly) : (s.setPreg r f).mem = s.mem := rfl
@[simp] theorem State.setPreg_memDraw (s : State) (r : Nat) (f : Poly) : (s.setPreg r f).memDraw = s.memDraw := rfl
@[simp] theorem State.setPreg_pregs (s : State) (r : Nat) (f : Poly) : (s.setPreg r f).pregs = store r f s.pregs := rfl
@[simp] theorem State.setPreg_pregDraw (s : State) (r : Nat) (f : Poly) : (s.setPreg r f).pregDraw = s.pregDraw := rfl
@[simp] theorem State.setPreg_draws (s : State) (r : Nat) (f : Poly) : (s.setPreg r f).draws = s.draws := rfl
@[simp] theorem State.setPreg_readData (s : State) (r : Nat) (f : Poly) : (s.setPreg r f).readData = s.readData := rfl
@[simp] theorem State.setPreg_agenda (s : State) (r : Nat) (f : Poly) : (s.setPreg r f).agenda = s.agenda := rfl

/-! ### forgetPregs -/

@[simp] theorem State.forgetPregs_params (s : State) : (s.forgetPregs).params = s.params := rfl
@[simp] theorem State.forgetPregs_ie (s : State) : (s.forgetPregs).ie = s.ie := rfl
@[simp] theorem State.forgetPregs_done (s : State) : (s.forgetPregs).done = s.done := rfl
@[simp] theorem State.forgetPregs_err (s : State) : (s.forgetPregs).err = s.err := rfl
@[simp] theorem State.forgetPregs_overrun (s : State) : (s.forgetPregs).overrun = s.overrun := rfl
@[simp] theorem State.forgetPregs_errcode (s : State) : (s.forgetPregs).errcode = s.errcode := rfl
@[simp] theorem State.forgetPregs_args (s : State) : (s.forgetPregs).args = s.args := rfl
@[simp] theorem State.forgetPregs_result (s : State) : (s.forgetPregs).result = s.result := rfl
@[simp] theorem State.forgetPregs_pending (s : State) : (s.forgetPregs).pending = s.pending := rfl
@[simp] theorem State.forgetPregs_mem (s : State) : (s.forgetPregs).mem = s.mem := rfl
@[simp] theorem State.forgetPregs_memDraw (s : State) : (s.forgetPregs).memDraw = s.memDraw := rfl
@[simp] theorem State.forgetPregs_pregs (s : State) : (s.forgetPregs).pregs = [] := rfl
@[simp] theorem State.forgetPregs_pregDraw (s : State) : (s.forgetPregs).pregDraw = s.draws := rfl
@[simp] theorem State.forgetPregs_draws (s : State) : (s.forgetPregs).draws = s.draws := rfl
@[simp] theorem State.forgetPregs_readData (s : State) : (s.forgetPregs).readData = s.readData := rfl
@[simp] theorem State.forgetPregs_agenda (s : State) : (s.forgetPregs).agenda = s.agenda := rfl

/-! ### spend -/

@[simp] theorem State.spend_params (s : State) : (s.spend).params = s.params := rfl
@[simp] theorem State.spend_ie (s : State) : (s.spend).ie = s.ie := rfl
@[simp] theorem State.spend_done (s : State) : (s.spend).done = s.done := rfl
@[simp] theorem State.spend_err (s : State) : (s.spend).err = s.err := rfl
@[simp] theorem State.spend_overrun (s : State) : (s.spend).overrun = s.overrun := rfl
@[simp] theorem State.spend_errcode (s : State) : (s.spend).errcode = s.errcode := rfl
@[simp] theorem State.spend_args (s : State) : (s.spend).args = s.args := rfl
@[simp] theorem State.spend_result (s : State) : (s.spend).result = s.result := rfl
@[simp] theorem State.spend_pending (s : State) : (s.spend).pending = s.pending := rfl
@[simp] theorem State.spend_mem (s : State) : (s.spend).mem = s.mem := rfl
@[simp] theorem State.spend_memDraw (s : State) : (s.spend).memDraw = s.memDraw := rfl
@[simp] theorem State.spend_pregs (s : State) : (s.spend).pregs = s.pregs := rfl
@[simp] theorem State.spend_pregDraw (s : State) : (s.spend).pregDraw = s.pregDraw := rfl
@[simp] theorem State.spend_draws (s : State) : (s.spend).draws = s.draws + 1 := rfl
@[simp] theorem State.spend_readData (s : State) : (s.spend).readData = s.readData := rfl
@[simp] theorem State.spend_agenda (s : State) : (s.spend).agenda = s.agenda := rfl

/-! ### completeOk -/

@[simp] theorem State.completeOk_params (s : State) : (s.completeOk).params = s.params := rfl
@[simp] theorem State.completeOk_ie (s : State) : (s.completeOk).ie = s.ie := rfl
@[simp] theorem State.completeOk_done (s : State) : (s.completeOk).done = true := rfl
@[simp] theorem State.completeOk_err (s : State) : (s.completeOk).err = s.err := rfl
@[simp] theorem State.completeOk_overrun (s : State) : (s.completeOk).overrun = s.overrun := rfl
@[simp] theorem State.completeOk_errcode (s : State) : (s.completeOk).errcode = s.errcode := rfl
@[simp] theorem State.completeOk_args (s : State) : (s.completeOk).args = s.args := rfl
@[simp] theorem State.completeOk_result (s : State) : (s.completeOk).result = s.result := rfl
@[simp] theorem State.completeOk_pending (s : State) : (s.completeOk).pending = none := rfl
@[simp] theorem State.completeOk_mem (s : State) : (s.completeOk).mem = s.mem := rfl
@[simp] theorem State.completeOk_memDraw (s : State) : (s.completeOk).memDraw = s.memDraw := rfl
@[simp] theorem State.completeOk_pregs (s : State) : (s.completeOk).pregs = s.pregs := rfl
@[simp] theorem State.completeOk_pregDraw (s : State) : (s.completeOk).pregDraw = s.pregDraw := rfl
@[simp] theorem State.completeOk_draws (s : State) : (s.completeOk).draws = s.draws := rfl
@[simp] theorem State.completeOk_readData (s : State) : (s.completeOk).readData = s.readData := rfl
@[simp] theorem State.completeOk_agenda (s : State) : (s.completeOk).agenda = s.agenda := rfl

/-! ### completeErr -/

@[simp] theorem State.completeErr_params (s : State) (e : ErrCode) : (s.completeErr e).params = s.params := rfl
@[simp] theorem State.completeErr_ie (s : State) (e : ErrCode) : (s.completeErr e).ie = s.ie := rfl
@[simp] theorem State.completeErr_done (s : State) (e : ErrCode) : (s.completeErr e).done = true := rfl
@[simp] theorem State.completeErr_err (s : State) (e : ErrCode) : (s.completeErr e).err = true := rfl
@[simp] theorem State.completeErr_overrun (s : State) (e : ErrCode) : (s.completeErr e).overrun = s.overrun := rfl
@[simp] theorem State.completeErr_errcode (s : State) (e : ErrCode) : (s.completeErr e).errcode = e.code := rfl
@[simp] theorem State.completeErr_args (s : State) (e : ErrCode) : (s.completeErr e).args = s.args := rfl
@[simp] theorem State.completeErr_result (s : State) (e : ErrCode) : (s.completeErr e).result = s.result := rfl
@[simp] theorem State.completeErr_pending (s : State) (e : ErrCode) : (s.completeErr e).pending = none := rfl
@[simp] theorem State.completeErr_mem (s : State) (e : ErrCode) : (s.completeErr e).mem = s.mem := rfl
@[simp] theorem State.completeErr_memDraw (s : State) (e : ErrCode) : (s.completeErr e).memDraw = s.memDraw := rfl
@[simp] theorem State.completeErr_pregs (s : State) (e : ErrCode) : (s.completeErr e).pregs = s.pregs := rfl
@[simp] theorem State.completeErr_pregDraw (s : State) (e : ErrCode) : (s.completeErr e).pregDraw = s.pregDraw := rfl
@[simp] theorem State.completeErr_draws (s : State) (e : ErrCode) : (s.completeErr e).draws = s.draws := rfl
@[simp] theorem State.completeErr_readData (s : State) (e : ErrCode) : (s.completeErr e).readData = s.readData := rfl
@[simp] theorem State.completeErr_agenda (s : State) (e : ErrCode) : (s.completeErr e).agenda = s.agenda := rfl

/-! ### notYet -/

@[simp] theorem State.notYet_params (s : State) : (s.notYet).params = s.params := rfl
@[simp] theorem State.notYet_ie (s : State) : (s.notYet).ie = s.ie := rfl
@[simp] theorem State.notYet_done (s : State) : (s.notYet).done = s.done := rfl
@[simp] theorem State.notYet_err (s : State) : (s.notYet).err = s.err := rfl
@[simp] theorem State.notYet_overrun (s : State) : (s.notYet).overrun = s.overrun := rfl
@[simp] theorem State.notYet_errcode (s : State) : (s.notYet).errcode = s.errcode := rfl
@[simp] theorem State.notYet_args (s : State) : (s.notYet).args = s.args := rfl
@[simp] theorem State.notYet_result (s : State) : (s.notYet).result = s.result := rfl
@[simp] theorem State.notYet_pending (s : State) : (s.notYet).pending = s.pending.map fun p => { p with effort := p.effort + 1 } := rfl
@[simp] theorem State.notYet_mem (s : State) : (s.notYet).mem = s.mem := rfl
@[simp] theorem State.notYet_memDraw (s : State) : (s.notYet).memDraw = s.memDraw := rfl
@[simp] theorem State.notYet_pregs (s : State) : (s.notYet).pregs = s.pregs := rfl
@[simp] theorem State.notYet_pregDraw (s : State) : (s.notYet).pregDraw = s.pregDraw := rfl
@[simp] theorem State.notYet_draws (s : State) : (s.notYet).draws = s.draws := rfl
@[simp] theorem State.notYet_readData (s : State) : (s.notYet).readData = s.readData := rfl
@[simp] theorem State.notYet_agenda (s : State) : (s.notYet).agenda = s.agenda := rfl

/-! ### writeIe -/

@[simp] theorem State.writeIe_params (s : State) (v : Word) : (s.writeIe v).params = s.params := rfl
@[simp] theorem State.writeIe_ie (s : State) (v : Word) : (s.writeIe v).ie = v.getLsbD 1 := rfl
@[simp] theorem State.writeIe_done (s : State) (v : Word) : (s.writeIe v).done = s.done := rfl
@[simp] theorem State.writeIe_err (s : State) (v : Word) : (s.writeIe v).err = s.err := rfl
@[simp] theorem State.writeIe_overrun (s : State) (v : Word) : (s.writeIe v).overrun = s.overrun := rfl
@[simp] theorem State.writeIe_errcode (s : State) (v : Word) : (s.writeIe v).errcode = s.errcode := rfl
@[simp] theorem State.writeIe_args (s : State) (v : Word) : (s.writeIe v).args = s.args := rfl
@[simp] theorem State.writeIe_result (s : State) (v : Word) : (s.writeIe v).result = s.result := rfl
@[simp] theorem State.writeIe_pending (s : State) (v : Word) : (s.writeIe v).pending = s.pending := rfl
@[simp] theorem State.writeIe_mem (s : State) (v : Word) : (s.writeIe v).mem = s.mem := rfl
@[simp] theorem State.writeIe_memDraw (s : State) (v : Word) : (s.writeIe v).memDraw = s.memDraw := rfl
@[simp] theorem State.writeIe_pregs (s : State) (v : Word) : (s.writeIe v).pregs = s.pregs := rfl
@[simp] theorem State.writeIe_pregDraw (s : State) (v : Word) : (s.writeIe v).pregDraw = s.pregDraw := rfl
@[simp] theorem State.writeIe_draws (s : State) (v : Word) : (s.writeIe v).draws = s.draws := rfl
@[simp] theorem State.writeIe_readData (s : State) (v : Word) : (s.writeIe v).readData = s.readData := rfl
@[simp] theorem State.writeIe_agenda (s : State) (v : Word) : (s.writeIe v).agenda = s.agenda := rfl

/-! ### writeStatus -/

@[simp] theorem State.writeStatus_params (s : State) (v : Word) : (s.writeStatus v).params = s.params := rfl
@[simp] theorem State.writeStatus_ie (s : State) (v : Word) : (s.writeStatus v).ie = s.ie := rfl
@[simp] theorem State.writeStatus_done (s : State) (v : Word) : (s.writeStatus v).done = (s.done && !v.getLsbD 1) := rfl
@[simp] theorem State.writeStatus_err (s : State) (v : Word) : (s.writeStatus v).err = (s.err && !v.getLsbD 2) := rfl
@[simp] theorem State.writeStatus_overrun (s : State) (v : Word) : (s.writeStatus v).overrun = (s.overrun && !v.getLsbD 3) := rfl
@[simp] theorem State.writeStatus_errcode (s : State) (v : Word) : (s.writeStatus v).errcode = if v.getLsbD 2 then 0 else s.errcode := rfl
@[simp] theorem State.writeStatus_args (s : State) (v : Word) : (s.writeStatus v).args = s.args := rfl
@[simp] theorem State.writeStatus_result (s : State) (v : Word) : (s.writeStatus v).result = s.result := rfl
@[simp] theorem State.writeStatus_pending (s : State) (v : Word) : (s.writeStatus v).pending = s.pending := rfl
@[simp] theorem State.writeStatus_mem (s : State) (v : Word) : (s.writeStatus v).mem = s.mem := rfl
@[simp] theorem State.writeStatus_memDraw (s : State) (v : Word) : (s.writeStatus v).memDraw = s.memDraw := rfl
@[simp] theorem State.writeStatus_pregs (s : State) (v : Word) : (s.writeStatus v).pregs = s.pregs := rfl
@[simp] theorem State.writeStatus_pregDraw (s : State) (v : Word) : (s.writeStatus v).pregDraw = s.pregDraw := rfl
@[simp] theorem State.writeStatus_draws (s : State) (v : Word) : (s.writeStatus v).draws = s.draws := rfl
@[simp] theorem State.writeStatus_readData (s : State) (v : Word) : (s.writeStatus v).readData = s.readData := rfl
@[simp] theorem State.writeStatus_agenda (s : State) (v : Word) : (s.writeStatus v).agenda = s.agenda := rfl

/-! ### noteRace -/

@[simp] theorem State.noteRace_params (s : State) (a : Nat) : (s.noteRace a).params = s.params := rfl
@[simp] theorem State.noteRace_ie (s : State) (a : Nat) : (s.noteRace a).ie = s.ie := rfl
@[simp] theorem State.noteRace_done (s : State) (a : Nat) : (s.noteRace a).done = s.done := rfl
@[simp] theorem State.noteRace_err (s : State) (a : Nat) : (s.noteRace a).err = s.err := rfl
@[simp] theorem State.noteRace_overrun (s : State) (a : Nat) : (s.noteRace a).overrun = s.overrun := rfl
@[simp] theorem State.noteRace_errcode (s : State) (a : Nat) : (s.noteRace a).errcode = s.errcode := rfl
@[simp] theorem State.noteRace_args (s : State) (a : Nat) : (s.noteRace a).args = s.args := rfl
@[simp] theorem State.noteRace_result (s : State) (a : Nat) : (s.noteRace a).result = s.result := rfl
@[simp] theorem State.noteRace_pending (s : State) (a : Nat) : (s.noteRace a).pending = s.pending.map fun p => { p with races := a :: p.races } := rfl
@[simp] theorem State.noteRace_mem (s : State) (a : Nat) : (s.noteRace a).mem = s.mem := rfl
@[simp] theorem State.noteRace_memDraw (s : State) (a : Nat) : (s.noteRace a).memDraw = s.memDraw := rfl
@[simp] theorem State.noteRace_pregs (s : State) (a : Nat) : (s.noteRace a).pregs = s.pregs := rfl
@[simp] theorem State.noteRace_pregDraw (s : State) (a : Nat) : (s.noteRace a).pregDraw = s.pregDraw := rfl
@[simp] theorem State.noteRace_draws (s : State) (a : Nat) : (s.noteRace a).draws = s.draws := rfl
@[simp] theorem State.noteRace_readData (s : State) (a : Nat) : (s.noteRace a).readData = s.readData := rfl
@[simp] theorem State.noteRace_agenda (s : State) (a : Nat) : (s.noteRace a).agenda = s.agenda := rfl

/-! ### pollDone -/

@[simp] theorem State.pollDone_params (s : State) : (s.pollDone).params = s.params := rfl
@[simp] theorem State.pollDone_ie (s : State) : (s.pollDone).ie = s.ie := rfl
@[simp] theorem State.pollDone_done (s : State) : (s.pollDone).done = s.done := rfl
@[simp] theorem State.pollDone_err (s : State) : (s.pollDone).err = s.err := rfl
@[simp] theorem State.pollDone_overrun (s : State) : (s.pollDone).overrun = s.overrun := rfl
@[simp] theorem State.pollDone_errcode (s : State) : (s.pollDone).errcode = s.errcode := rfl
@[simp] theorem State.pollDone_args (s : State) : (s.pollDone).args = s.args := rfl
@[simp] theorem State.pollDone_result (s : State) : (s.pollDone).result = s.result := rfl
@[simp] theorem State.pollDone_pending (s : State) : (s.pollDone).pending = s.pending := rfl
@[simp] theorem State.pollDone_mem (s : State) : (s.pollDone).mem = s.mem := rfl
@[simp] theorem State.pollDone_memDraw (s : State) : (s.pollDone).memDraw = s.memDraw := rfl
@[simp] theorem State.pollDone_pregs (s : State) : (s.pollDone).pregs = s.pregs := rfl
@[simp] theorem State.pollDone_pregDraw (s : State) : (s.pollDone).pregDraw = s.pregDraw := rfl
@[simp] theorem State.pollDone_draws (s : State) : (s.pollDone).draws = s.draws := rfl
@[simp] theorem State.pollDone_readData (s : State) : (s.pollDone).readData = some s.statusWord := rfl
@[simp] theorem State.statusWord_done (s : State) : s.statusWord.getLsbD 1 = s.done := by
  unfold State.statusWord bitAt State.busy
  cases s.pending.isSome <;> cases s.done <;> cases s.err <;> cases s.overrun <;> simp
@[simp] theorem State.pollDone_agenda (s : State) :
    (s.pollDone).agenda = if s.done then s.agenda else .engine :: .wait :: s.agenda := by
  rw [← State.statusWord_done]; rfl

end Sys2Proof.Machine
end

