-- ==== Sys2Proof/Laws/Memory.lean ====
section
/-! SUPPORT. MEM and the polynomial registers: what a write changes, what a read after it returns, and that every memory
operation keeps the canonical form. -/

namespace Sys2Proof.Machine

/-! ### Writing bytes changes only `mem` -/

theorem State.writeBytes_only_mem (s : State) (a : Nat) (B : List Byte) :
    s.writeBytes a B = { s with mem := (s.writeBytes a B).mem } := by
  induction B generalizing a s with
  | nil => rfl
  | cons b B ih => rw [State.writeBytes, ih]; rfl

theorem State.scramble_only_mem (s : State) (rs : List Region) :
    s.scramble rs = { s with mem := (s.scramble rs).mem } := by
  induction rs generalizing s with
  | nil => rfl
  | cons r rs ih => rw [State.scramble, ih, State.writeBytes_only_mem]

theorem State.scrambleBytes_only_mem (s : State) (as : List Nat) :
    s.scrambleBytes as = { s with mem := (s.scrambleBytes as).mem } := by
  induction as generalizing s with
  | nil => rfl
  | cons a as ih => rw [State.scrambleBytes, ih]; rfl

@[simp] theorem State.writeBytes_params (s : State) (a : Nat) (B : List Byte) : (s.writeBytes a B).params = s.params := by
  rw [s.writeBytes_only_mem]
@[simp] theorem State.writeBytes_ie (s : State) (a : Nat) (B : List Byte) : (s.writeBytes a B).ie = s.ie := by
  rw [s.writeBytes_only_mem]
@[simp] theorem State.writeBytes_done (s : State) (a : Nat) (B : List Byte) : (s.writeBytes a B).done = s.done := by
  rw [s.writeBytes_only_mem]
@[simp] theorem State.writeBytes_err (s : State) (a : Nat) (B : List Byte) : (s.writeBytes a B).err = s.err := by
  rw [s.writeBytes_only_mem]
@[simp] theorem State.writeBytes_overrun (s : State) (a : Nat) (B : List Byte) : (s.writeBytes a B).overrun = s.overrun := by
  rw [s.writeBytes_only_mem]
@[simp] theorem State.writeBytes_errcode (s : State) (a : Nat) (B : List Byte) : (s.writeBytes a B).errcode = s.errcode := by
  rw [s.writeBytes_only_mem]
@[simp] theorem State.writeBytes_args (s : State) (a : Nat) (B : List Byte) : (s.writeBytes a B).args = s.args := by
  rw [s.writeBytes_only_mem]
@[simp] theorem State.writeBytes_result (s : State) (a : Nat) (B : List Byte) : (s.writeBytes a B).result = s.result := by
  rw [s.writeBytes_only_mem]
@[simp] theorem State.writeBytes_pending (s : State) (a : Nat) (B : List Byte) : (s.writeBytes a B).pending = s.pending := by
  rw [s.writeBytes_only_mem]
@[simp] theorem State.writeBytes_memDraw (s : State) (a : Nat) (B : List Byte) : (s.writeBytes a B).memDraw = s.memDraw := by
  rw [s.writeBytes_only_mem]
@[simp] theorem State.writeBytes_pregs (s : State) (a : Nat) (B : List Byte) : (s.writeBytes a B).pregs = s.pregs := by
  rw [s.writeBytes_only_mem]
@[simp] theorem State.writeBytes_pregDraw (s : State) (a : Nat) (B : List Byte) : (s.writeBytes a B).pregDraw = s.pregDraw := by
  rw [s.writeBytes_only_mem]
@[simp] theorem State.writeBytes_draws (s : State) (a : Nat) (B : List Byte) : (s.writeBytes a B).draws = s.draws := by
  rw [s.writeBytes_only_mem]
@[simp] theorem State.writeBytes_readData (s : State) (a : Nat) (B : List Byte) : (s.writeBytes a B).readData = s.readData := by
  rw [s.writeBytes_only_mem]
@[simp] theorem State.writeBytes_agenda (s : State) (a : Nat) (B : List Byte) : (s.writeBytes a B).agenda = s.agenda := by
  rw [s.writeBytes_only_mem]

@[simp] theorem State.scramble_params (s : State) (rs : List Region) : (s.scramble rs).params = s.params := by
  rw [s.scramble_only_mem]
@[simp] theorem State.scramble_ie (s : State) (rs : List Region) : (s.scramble rs).ie = s.ie := by
  rw [s.scramble_only_mem]
@[simp] theorem State.scramble_done (s : State) (rs : List Region) : (s.scramble rs).done = s.done := by
  rw [s.scramble_only_mem]
@[simp] theorem State.scramble_err (s : State) (rs : List Region) : (s.scramble rs).err = s.err := by
  rw [s.scramble_only_mem]
@[simp] theorem State.scramble_overrun (s : State) (rs : List Region) : (s.scramble rs).overrun = s.overrun := by
  rw [s.scramble_only_mem]
@[simp] theorem State.scramble_errcode (s : State) (rs : List Region) : (s.scramble rs).errcode = s.errcode := by
  rw [s.scramble_only_mem]
@[simp] theorem State.scramble_args (s : State) (rs : List Region) : (s.scramble rs).args = s.args := by
  rw [s.scramble_only_mem]
@[simp] theorem State.scramble_result (s : State) (rs : List Region) : (s.scramble rs).result = s.result := by
  rw [s.scramble_only_mem]
@[simp] theorem State.scramble_pending (s : State) (rs : List Region) : (s.scramble rs).pending = s.pending := by
  rw [s.scramble_only_mem]
@[simp] theorem State.scramble_memDraw (s : State) (rs : List Region) : (s.scramble rs).memDraw = s.memDraw := by
  rw [s.scramble_only_mem]
@[simp] theorem State.scramble_pregs (s : State) (rs : List Region) : (s.scramble rs).pregs = s.pregs := by
  rw [s.scramble_only_mem]
@[simp] theorem State.scramble_pregDraw (s : State) (rs : List Region) : (s.scramble rs).pregDraw = s.pregDraw := by
  rw [s.scramble_only_mem]
@[simp] theorem State.scramble_draws (s : State) (rs : List Region) : (s.scramble rs).draws = s.draws := by
  rw [s.scramble_only_mem]
@[simp] theorem State.scramble_readData (s : State) (rs : List Region) : (s.scramble rs).readData = s.readData := by
  rw [s.scramble_only_mem]
@[simp] theorem State.scramble_agenda (s : State) (rs : List Region) : (s.scramble rs).agenda = s.agenda := by
  rw [s.scramble_only_mem]

@[simp] theorem State.scrambleBytes_params (s : State) (as : List Nat) : (s.scrambleBytes as).params = s.params := by
  rw [s.scrambleBytes_only_mem]
@[simp] theorem State.scrambleBytes_ie (s : State) (as : List Nat) : (s.scrambleBytes as).ie = s.ie := by
  rw [s.scrambleBytes_only_mem]
@[simp] theorem State.scrambleBytes_done (s : State) (as : List Nat) : (s.scrambleBytes as).done = s.done := by
  rw [s.scrambleBytes_only_mem]
@[simp] theorem State.scrambleBytes_err (s : State) (as : List Nat) : (s.scrambleBytes as).err = s.err := by
  rw [s.scrambleBytes_only_mem]
@[simp] theorem State.scrambleBytes_overrun (s : State) (as : List Nat) : (s.scrambleBytes as).overrun = s.overrun := by
  rw [s.scrambleBytes_only_mem]
@[simp] theorem State.scrambleBytes_errcode (s : State) (as : List Nat) : (s.scrambleBytes as).errcode = s.errcode := by
  rw [s.scrambleBytes_only_mem]
@[simp] theorem State.scrambleBytes_args (s : State) (as : List Nat) : (s.scrambleBytes as).args = s.args := by
  rw [s.scrambleBytes_only_mem]
@[simp] theorem State.scrambleBytes_result (s : State) (as : List Nat) : (s.scrambleBytes as).result = s.result := by
  rw [s.scrambleBytes_only_mem]
@[simp] theorem State.scrambleBytes_pending (s : State) (as : List Nat) : (s.scrambleBytes as).pending = s.pending := by
  rw [s.scrambleBytes_only_mem]
@[simp] theorem State.scrambleBytes_memDraw (s : State) (as : List Nat) : (s.scrambleBytes as).memDraw = s.memDraw := by
  rw [s.scrambleBytes_only_mem]
@[simp] theorem State.scrambleBytes_pregs (s : State) (as : List Nat) : (s.scrambleBytes as).pregs = s.pregs := by
  rw [s.scrambleBytes_only_mem]
@[simp] theorem State.scrambleBytes_pregDraw (s : State) (as : List Nat) : (s.scrambleBytes as).pregDraw = s.pregDraw := by
  rw [s.scrambleBytes_only_mem]
@[simp] theorem State.scrambleBytes_draws (s : State) (as : List Nat) : (s.scrambleBytes as).draws = s.draws := by
  rw [s.scrambleBytes_only_mem]
@[simp] theorem State.scrambleBytes_readData (s : State) (as : List Nat) : (s.scrambleBytes as).readData = s.readData := by
  rw [s.scrambleBytes_only_mem]
@[simp] theorem State.scrambleBytes_agenda (s : State) (as : List Nat) : (s.scrambleBytes as).agenda = s.agenda := by
  rw [s.scrambleBytes_only_mem]

/-! ### Reading bytes -/

/-- A read depends on the written bytes and on the draw of the unwritten ones. -/
theorem State.readByte_congr {s t : State} (hm : t.mem = s.mem) (hd : t.memDraw = s.memDraw) (a : Nat) :
    t.readByte a = s.readByte a := by
  simp only [State.readByte, hm, hd]

/-- A read of a register depends on the written registers and on the draw of the unwritten ones. -/
theorem State.preg_congr {s t : State} (hp : t.pregs = s.pregs) (hd : t.pregDraw = s.pregDraw) (r : Nat) :
    t.preg r = s.preg r := by
  simp only [State.preg, hp, hd]

theorem State.readByte_writeByte (s : State) (a : Nat) (v : Byte) (x : Nat) :
    (s.writeByte a v).readByte x = if x = a then v else s.readByte x := by
  simp only [State.readByte, State.writeByte_mem, State.writeByte_memDraw, lookup_store]
  split <;> rfl

/-- After a write of a byte string, its addresses read as it and every other address reads as before. -/
theorem State.readByte_writeBytes (s : State) (a : Nat) (B : List Byte) (x : Nat) :
    (s.writeBytes a B).readByte x = if a ≤ x ∧ x < a + B.length then B.getD (x - a) 0 else s.readByte x := by
  induction B generalizing a s with
  | nil =>
    have h : ¬(a ≤ x ∧ x < a + ([] : List Byte).length) := by simp only [List.length_nil]; omega
    rw [if_neg h]; rfl
  | cons b B ih =>
    rw [State.writeBytes, ih, State.readByte_writeByte, List.length_cons]
    by_cases hx : x = a
    · subst hx
      rw [if_neg (by omega), if_pos rfl, if_pos (by omega), Nat.sub_self]; rfl
    · by_cases hin : a + 1 ≤ x ∧ x < a + 1 + B.length
      · rw [if_pos hin, if_pos (by omega)]
        have : x - a = x - (a + 1) + 1 := by omega
        rw [this, List.getD_cons_succ]
      · rw [if_neg hin, if_neg hx, if_neg (by omega)]

@[simp] theorem State.readBytes_length (s : State) (a n : Nat) : (s.readBytes a n).length = n := by
  simp [State.readBytes]

@[simp] theorem freeBytes_length (draw a n : Nat) : (freeBytes draw a n).length = n := by
  simp [freeBytes]

theorem State.readBytes_congr {s t : State} {a n : Nat} (h : ∀ k, k < n → t.readByte (a + k) = s.readByte (a + k)) :
    t.readBytes a n = s.readBytes a n := by
  simp only [State.readBytes]
  refine List.map_congr_left fun k hk => h k ?_
  simpa using hk

/-! ### Polynomial registers -/

theorem State.preg_setPreg (s : State) (r : Nat) (f : Poly) (x : Nat) :
    (s.setPreg r f).preg x = if x = r then f else s.preg x := by
  simp only [State.preg, State.setPreg_pregs, State.setPreg_pregDraw, lookup_store]
  split <;> rfl

/-- After P becomes unspecified, every register holds the draw made then. -/
theorem State.preg_forgetPregs (s : State) (r : Nat) : s.forgetPregs.preg r = freePoly s.draws r := rfl

@[simp] theorem Poly.coeffs_length (f : Poly) : f.coeffs.length = 256 := by simp [Poly.coeffs]

theorem Poly.coeffs_lt {f : Poly} {x : Nat} (h : x ∈ f.coeffs) : x < 4096 := by
  simp only [Poly.coeffs, List.mem_map] at h
  obtain ⟨c, -, rfl⟩ := h
  exact c.isLt

/-- A register written with 256 coefficients below 4096 holds exactly them. -/
theorem Poly.coeffs_ofCoeffs {l : List Nat} (hl : l.length = 256) (hb : ∀ x ∈ l, x < 4096) :
    (Poly.ofCoeffs l).coeffs = l := by
  have ht : (l ++ List.replicate 256 0).take 256 = l := by
    rw [List.take_append_of_le_length (by omega), List.take_of_length_le (by omega)]
  have : (Poly.ofCoeffs l).toList = l.map (BitVec.ofNat 12) := by
    simp only [Poly.ofCoeffs, Poly.ofList, Vector.toList, ht]
  rw [Poly.coeffs, this, List.map_map]
  conv_rhs => rw [← List.map_id l]
  refine List.map_congr_left fun x hx => ?_
  simp only [Function.comp, BitVec.toNat_ofNat, id]
  exact Nat.mod_eq_of_lt (hb x hx)

/-! ### The canonical form -/

theorem State.writeByte_wf {s : State} (h : Memory.wf s.mem) (a : Nat) (v : Byte) : Memory.wf (s.writeByte a v).mem :=
  store_wf h

theorem State.writeBytes_wf {s : State} (h : Memory.wf s.mem) (a : Nat) (B : List Byte) :
    Memory.wf (s.writeBytes a B).mem := by
  induction B generalizing a s with
  | nil => exact h
  | cons b B ih => exact ih (State.writeByte_wf h a b) (a + 1)

theorem State.scramble_wf {s : State} (h : Memory.wf s.mem) (rs : List Region) : Memory.wf (s.scramble rs).mem := by
  induction rs generalizing s with
  | nil => exact h
  | cons r rs ih => exact ih (State.writeBytes_wf h _ _)

theorem State.scrambleBytes_wf {s : State} (h : Memory.wf s.mem) (as : List Nat) :
    Memory.wf (s.scrambleBytes as).mem := by
  induction as generalizing s with
  | nil => exact h
  | cons a as ih => exact ih (State.writeByte_wf h _ _)

theorem State.hostWriteByte_wf {s : State} (h : Memory.wf s.mem) (a : Nat) (v : Byte) :
    Memory.wf (s.hostWriteByte a v).mem := by
  unfold State.hostWriteByte
  split <;> exact State.writeByte_wf h _ _

theorem State.hostWriteMem_wf {s : State} (h : Memory.wf s.mem) (a : Nat) (B : List Byte) :
    Memory.wf (s.hostWriteMem a B).mem := by
  induction B generalizing a s with
  | nil => exact h
  | cons b B ih => exact ih (State.hostWriteByte_wf h a b) (a + 1)

theorem State.setPreg_wf {s : State} (h : Sparse.wf s.pregs) (r : Nat) (f : Poly) : Sparse.wf (s.setPreg r f).pregs :=
  store_wf h

/-- Reset memory is in canonical form. -/
theorem State.reset_mem_wf : Memory.wf State.reset.mem := List.Pairwise.nil

end Sys2Proof.Machine
end

