-- ==== Sys2Proof/Laws/Ops.lean ====
section
/-! SUPPORT. What the shared frame of every command can do, said once: failed, raced, completed, or still running. -/

namespace Sys2Proof.Machine

variable {i : Instr} {effect : State → Option State} {s t : State}

/-- A command that fails its argument check. -/
theorem runCommand_failed {e : ErrCode} (hc : check s.params i = some e) :
    runCommand i effect s = .next (s.failCommand e (outputs i)) := by
  simp only [runCommand, hc]

/-- A command that passed its check, with no race, and whose effect is ready. -/
theorem runCommand_completed (hc : check s.params i = none) (hr : s.races = []) (he : effect s = some t) :
    runCommand i effect s = .next t.completeOk := by
  simp only [runCommand, hc, hr, he]

/-- A command whose rejection loops are still running, raced or not. -/
theorem runCommand_running (hc : check s.params i = none) (he : effect s = none) :
    runCommand i effect s = .next s.notYet := by
  simp only [runCommand, hc, he]

/-- A command the host raced on, and whose effect is ready. -/
theorem runCommand_raced (hc : check s.params i = none) (hr : s.races ≠ []) (he : effect s = some t) :
    runCommand i effect s = .next (s.raceOutcome i) := by
  simp only [runCommand, hc, he]
  split
  · next h => exact absurd h hr
  · rfl

/-- Everything a command can do. -/
theorem runCommand_cases (h : runCommand i effect s = .next t) :
    (∃ e, check s.params i = some e ∧ t = s.failCommand e (outputs i)) ∨
    (check s.params i = none ∧ effect s = none ∧ t = s.notYet) ∨
    (check s.params i = none ∧ s.races ≠ [] ∧ (∃ u, effect s = some u) ∧ t = s.raceOutcome i) ∨
    (check s.params i = none ∧ s.races = [] ∧ ∃ u, effect s = some u ∧ t = u.completeOk) := by
  cases hc : check s.params i with
  | some e =>
    rw [runCommand_failed hc] at h
    exact .inl ⟨e, rfl, (Host.Outcome.next.inj h).symm⟩
  | none =>
    cases he : effect s with
    | none =>
      rw [runCommand_running hc he] at h
      exact .inr (.inl ⟨rfl, rfl, (Host.Outcome.next.inj h).symm⟩)
    | some u =>
      by_cases hr : s.races = []
      · rw [runCommand_completed hc hr he] at h
        exact .inr (.inr (.inr ⟨rfl, hr, u, rfl, (Host.Outcome.next.inj h).symm⟩))
      · rw [runCommand_raced hc hr he] at h
        exact .inr (.inr (.inl ⟨rfl, hr, ⟨u, rfl⟩, (Host.Outcome.next.inj h).symm⟩))

/-- With no race, a failed check writes STATUS only. -/
theorem State.failCommand_unraced (s : State) (e : ErrCode) (outs : List Region) (hr : s.races = []) :
    s.failCommand e outs = s.completeErr e := by
  simp only [State.failCommand, hr]

@[simp] theorem State.races_none (s : State) (h : s.pending = none) : s.races = [] := by
  simp only [State.races, h]

/-! ### Fields a race, a failure or a soft reset does not touch -/

@[simp] theorem State.scrambleDest_params (s : State) (d : Dest) : (s.scrambleDest d).params = s.params := by
  cases d <;> rfl
@[simp] theorem State.scrambleDest_mem (s : State) (d : Dest) : (s.scrambleDest d).mem = s.mem := by
  cases d <;> rfl
@[simp] theorem State.scrambleDest_memDraw (s : State) (d : Dest) : (s.scrambleDest d).memDraw = s.memDraw := by
  cases d <;> rfl
@[simp] theorem State.scrambleDest_args (s : State) (d : Dest) : (s.scrambleDest d).args = s.args := by
  cases d <;> rfl
@[simp] theorem State.scrambleDest_ie (s : State) (d : Dest) : (s.scrambleDest d).ie = s.ie := by
  cases d <;> rfl
@[simp] theorem State.scrambleDest_err (s : State) (d : Dest) : (s.scrambleDest d).err = s.err := by
  cases d <;> rfl
@[simp] theorem State.scrambleDest_errcode (s : State) (d : Dest) : (s.scrambleDest d).errcode = s.errcode := by
  cases d <;> rfl
@[simp] theorem State.scrambleDest_overrun (s : State) (d : Dest) : (s.scrambleDest d).overrun = s.overrun := by
  cases d <;> rfl
@[simp] theorem State.scrambleDest_readData (s : State) (d : Dest) : (s.scrambleDest d).readData = s.readData := by
  cases d <;> rfl
@[simp] theorem State.scrambleDest_agenda (s : State) (d : Dest) : (s.scrambleDest d).agenda = s.agenda := by
  cases d <;> rfl
@[simp] theorem State.scrambleDest_draws (s : State) (d : Dest) : (s.scrambleDest d).draws = s.draws := by
  cases d <;> rfl

end Sys2Proof.Machine
end

