-- ==== Sys2Proof/Laws/PerInstr.lean ====
section
/-! SUPPORT. Per command: the argument check (60_exceptions.md R343) passes exactly when the operands are well formed. -/

set_option linter.unusedSimpArgs false

namespace Sys2Proof.Laws

open Sys2Proof.Machine

@[simp] theorem inRange_iff (p : Params) (a n : Nat) : (Region.mk a n).inRange p = true ↔ inRange p a n := by
  simp [Region.inRange, Sys2Proof.inRange]

theorem overlaps_iff (a n b m : Nat) : (Region.mk a n).overlaps ⟨b, m⟩ = true ↔ ¬apart a n b m := by
  simp only [Region.overlaps, Bool.and_eq_true, decide_eq_true_eq, apart]
  omega

@[simp] theorem not_overlaps_iff (a n b m : Nat) : (Region.mk a n).overlaps ⟨b, m⟩ = false ↔ apart a n b m := by
  rw [← Bool.not_eq_true, overlaps_iff, Decidable.not_not]

@[simp] theorem nonce_ok_iff (v : Word) : v >>> 8 = 0#32 ↔ v.toNat < 256 := by
  rw [← BitVec.toNat_inj, BitVec.toNat_ushiftRight, Nat.shiftRight_eq_div_pow, BitVec.toNat_zero]
  omega

@[simp] theorem idx_ok_iff (v : Word) : v >>> 16 = 0#32 ↔ v.toNat < 65536 := by
  rw [← BitVec.toNat_inj, BitVec.toNat_ushiftRight, Nat.shiftRight_eq_div_pow, BitVec.toNat_zero]
  omega

@[simp] theorem preg_ok_iff (p : Params) (v : Word) : decide (p.npoly ≤ v.toNat) = false ↔ isPreg p v := by
  simp [isPreg]

/-- The check passes exactly when each of its five tests does. -/
theorem check_eq_none_iff (p : Params) (i : Instr) :
    check p i = none ↔
      (operands i).any Operand.badArg = false ∧ (operands i).any (Operand.badPreg p) = false ∧
      (operands i).any (Operand.badLen i) = false ∧ (inputs i ++ outputs i).any (fun r => !r.inRange p) = false ∧
      outputsOverlap (inputs i) (outputs i) = false := by
  unfold check
  cases (operands i).any Operand.badArg <;> cases (operands i).any (Operand.badPreg p) <;>
    cases (operands i).any (Operand.badLen i) <;> cases (inputs i ++ outputs i).any (fun r => !r.inRange p) <;>
    cases outputsOverlap (inputs i) (outputs i) <;> simp

namespace CheckAgrees

/-- The machine's check accepts exactly the well-formed operands. -/
def Statement (i : Instr) : Prop := ∀ p : Params, check p i = none ↔ i.wellFormed p

theorem nop : Statement .nop := fun p => by
  simp [check_eq_none_iff, inputs, outputs, operands, Instr.wellFormed, List.filterMap, and_assoc]
theorem keccakf (a b : Word) : Statement (.keccakf a b) := fun p => by
  simp [check_eq_none_iff, inputs, outputs, operands, Instr.wellFormed, List.filterMap, and_assoc]
theorem sha3_256 (a b c : Word) : Statement (.sha3_256 a b c) := fun p => by
  simp [check_eq_none_iff, inputs, outputs, operands, Instr.wellFormed, List.filterMap, and_assoc]
theorem sha3_512 (a b c : Word) : Statement (.sha3_512 a b c) := fun p => by
  simp [check_eq_none_iff, inputs, outputs, operands, Instr.wellFormed, List.filterMap, and_assoc, or_iff_not_imp_left]
theorem prf (a b c : Word) : Statement (.prf a b c) := fun p => by
  simp [check_eq_none_iff, inputs, outputs, operands, Instr.wellFormed, List.filterMap, and_assoc]
theorem xof (a b c d : Word) : Statement (.xof a b c d) := fun p => by
  simp [check_eq_none_iff, inputs, outputs, operands, Instr.wellFormed, List.filterMap, and_assoc]
theorem mulmod (a b : Word) : Statement (.mulmod a b) := fun p => by
  simp [check_eq_none_iff, inputs, outputs, operands, Instr.wellFormed, List.filterMap, and_assoc]
theorem padd (a b c : Word) : Statement (.padd a b c) := fun p => by
  simp [check_eq_none_iff, inputs, outputs, operands, Instr.wellFormed, List.filterMap, and_assoc]
theorem psub (a b c : Word) : Statement (.psub a b c) := fun p => by
  simp [check_eq_none_iff, inputs, outputs, operands, Instr.wellFormed, List.filterMap, and_assoc]
theorem ntt (a b : Word) : Statement (.ntt a b) := fun p => by
  simp [check_eq_none_iff, inputs, outputs, operands, Instr.wellFormed, List.filterMap, and_assoc]
theorem intt (a b : Word) : Statement (.intt a b) := fun p => by
  simp [check_eq_none_iff, inputs, outputs, operands, Instr.wellFormed, List.filterMap, and_assoc]
theorem basemul (a b c : Word) : Statement (.basemul a b c) := fun p => by
  simp [check_eq_none_iff, inputs, outputs, operands, Instr.wellFormed, List.filterMap, and_assoc]
theorem cbd2 (a b : Word) : Statement (.cbd2 a b) := fun p => by
  simp [check_eq_none_iff, inputs, outputs, operands, Instr.wellFormed, List.filterMap, and_assoc]
theorem samplentt (a b c : Word) : Statement (.samplentt a b c) := fun p => by
  simp [check_eq_none_iff, inputs, outputs, operands, Instr.wellFormed, List.filterMap, and_assoc]
theorem enc12 (a b : Word) : Statement (.enc12 a b) := fun p => by
  simp [check_eq_none_iff, inputs, outputs, operands, Instr.wellFormed, List.filterMap, and_assoc]
theorem dec12 (a b : Word) : Statement (.dec12 a b) := fun p => by
  simp [check_eq_none_iff, inputs, outputs, operands, Instr.wellFormed, List.filterMap, and_assoc]
theorem comp10 (a b : Word) : Statement (.comp10 a b) := fun p => by
  simp [check_eq_none_iff, inputs, outputs, operands, Instr.wellFormed, List.filterMap, and_assoc]
theorem decomp10 (a b : Word) : Statement (.decomp10 a b) := fun p => by
  simp [check_eq_none_iff, inputs, outputs, operands, Instr.wellFormed, List.filterMap, and_assoc]
theorem comp4 (a b : Word) : Statement (.comp4 a b) := fun p => by
  simp [check_eq_none_iff, inputs, outputs, operands, Instr.wellFormed, List.filterMap, and_assoc]
theorem decomp4 (a b : Word) : Statement (.decomp4 a b) := fun p => by
  simp [check_eq_none_iff, inputs, outputs, operands, Instr.wellFormed, List.filterMap, and_assoc]
theorem tomsg (a b : Word) : Statement (.tomsg a b) := fun p => by
  simp [check_eq_none_iff, inputs, outputs, operands, Instr.wellFormed, List.filterMap, and_assoc]
theorem frommsg (a b : Word) : Statement (.frommsg a b) := fun p => by
  simp [check_eq_none_iff, inputs, outputs, operands, Instr.wellFormed, List.filterMap, and_assoc]
theorem keygen (a b c d : Word) : Statement (.keygen a b c d) := fun p => by
  simp [check_eq_none_iff, inputs, outputs, operands, Instr.wellFormed, List.filterMap, and_assoc]
theorem encaps (a b c d : Word) : Statement (.encaps a b c d) := fun p => by
  simp [check_eq_none_iff, inputs, outputs, operands, Instr.wellFormed, List.filterMap, and_assoc]
theorem decaps (a b c : Word) : Statement (.decaps a b c) := fun p => by
  simp [check_eq_none_iff, inputs, outputs, operands, Instr.wellFormed, List.filterMap, and_assoc]

end CheckAgrees

/-- The machine's check accepts exactly the well-formed operands. -/
theorem check_none_iff_wellFormed (p : Params) (i : Instr) : check p i = none ↔ i.wellFormed p := by
  cases i
  case nop => exact CheckAgrees.nop p
  case keccakf => exact CheckAgrees.keccakf _ _ p
  case sha3_256 => exact CheckAgrees.sha3_256 _ _ _ p
  case sha3_512 => exact CheckAgrees.sha3_512 _ _ _ p
  case prf => exact CheckAgrees.prf _ _ _ p
  case xof => exact CheckAgrees.xof _ _ _ _ p
  case mulmod => exact CheckAgrees.mulmod _ _ p
  case padd => exact CheckAgrees.padd _ _ _ p
  case psub => exact CheckAgrees.psub _ _ _ p
  case ntt => exact CheckAgrees.ntt _ _ p
  case intt => exact CheckAgrees.intt _ _ p
  case basemul => exact CheckAgrees.basemul _ _ _ p
  case cbd2 => exact CheckAgrees.cbd2 _ _ p
  case samplentt => exact CheckAgrees.samplentt _ _ _ p
  case enc12 => exact CheckAgrees.enc12 _ _ p
  case dec12 => exact CheckAgrees.dec12 _ _ p
  case comp10 => exact CheckAgrees.comp10 _ _ p
  case decomp10 => exact CheckAgrees.decomp10 _ _ p
  case comp4 => exact CheckAgrees.comp4 _ _ p
  case decomp4 => exact CheckAgrees.decomp4 _ _ p
  case tomsg => exact CheckAgrees.tomsg _ _ p
  case frommsg => exact CheckAgrees.frommsg _ _ p
  case keygen => exact CheckAgrees.keygen _ _ _ _ p
  case encaps => exact CheckAgrees.encaps _ _ _ _ p
  case decaps => exact CheckAgrees.decaps _ _ _ p

end Sys2Proof.Laws
end

