-- ==== Sys2Proof/Tests/Slice0.lean ====
section
/-! SUPPORT. Tests: each constructor's decoding from a word written out from 30_encoding.md R94, ill-formed operands that
the check refuses, the spec's own vectors (95_test_vectors.md), and for each statement a witness that its hypotheses can
be met. -/

namespace Sys2Proof.Tests

open Sys2Proof Sys2Proof.Machine

/-! ### Decoding: the command word in bits 31:0, ARG0 in bits 63:32, and so on -/

theorem test_decode_nop : decodeTableWord 32 0x00000000 = some (.nop) := by decide
theorem test_decode_keccakf : decodeTableWord 96 0x00000200_00000010_00000001 = some (.keccakf 0x10 0x200) := by decide
theorem test_decode_sha3_256 : decodeTableWord 128 0x00001000_000004A0_00000000_00000002 = some (.sha3_256 0 1184 0x1000) := by decide
theorem test_decode_sha3_512 : decodeTableWord 128 0x00000080_00000021_00000020_00000003 = some (.sha3_512 0x20 33 0x80) := by decide
theorem test_decode_prf : decodeTableWord 128 0x00000100_00000006_00000040_00000004 = some (.prf 0x40 6 0x100) := by decide
theorem test_decode_xof : decodeTableWord 160 0x000001F8_00000100_00000102_00000040_00000005 = some (.xof 0x40 0x102 0x100 504) := by decide
theorem test_decode_mulmod : decodeTableWord 96 0x00000011_FFFFFFFF_00000010 = some (.mulmod 0xFFFFFFFF 17) := by decide
theorem test_decode_padd : decodeTableWord 128 0x00000003_00000002_00000001_00000011 = some (.padd 1 2 3) := by decide
theorem test_decode_psub : decodeTableWord 128 0x00000001_00000002_00000003_00000012 = some (.psub 3 2 1) := by decide
theorem test_decode_ntt : decodeTableWord 96 0x00000000_00000001_00000020 = some (.ntt 1 0) := by decide
theorem test_decode_intt : decodeTableWord 96 0x00000003_00000002_00000021 = some (.intt 2 3) := by decide
theorem test_decode_basemul : decodeTableWord 128 0x00000006_00000005_00000004_00000022 = some (.basemul 4 5 6) := by decide
theorem test_decode_cbd2 : decodeTableWord 96 0x00000080_00000007_00000030 = some (.cbd2 7 0x80) := by decide
theorem test_decode_samplentt : decodeTableWord 128 0x00000001_00000100_00000002_00000031 = some (.samplentt 2 0x100 1) := by decide
theorem test_decode_enc12 : decodeTableWord 96 0x00000200_00000003_00000040 = some (.enc12 3 0x200) := by decide
theorem test_decode_dec12 : decodeTableWord 96 0x00000200_00000003_00000041 = some (.dec12 3 0x200) := by decide
theorem test_decode_comp10 : decodeTableWord 96 0x00000300_00000004_00000042 = some (.comp10 4 0x300) := by decide
theorem test_decode_decomp10 : decodeTableWord 96 0x00000300_00000004_00000043 = some (.decomp10 4 0x300) := by decide
theorem test_decode_comp4 : decodeTableWord 96 0x00000400_00000005_00000044 = some (.comp4 5 0x400) := by decide
theorem test_decode_decomp4 : decodeTableWord 96 0x00000400_00000005_00000045 = some (.decomp4 5 0x400) := by decide
theorem test_decode_tomsg : decodeTableWord 96 0x00000500_00000006_00000046 = some (.tomsg 6 0x500) := by decide
theorem test_decode_frommsg : decodeTableWord 96 0x00000500_00000006_00000047 = some (.frommsg 6 0x500) := by decide
theorem test_decode_keygen : decodeTableWord 160 0x00000500_00000040_00000020_00000000_00000050 = some (.keygen 0 0x20 0x40 0x500) := by decide
theorem test_decode_encaps : decodeTableWord 160 0x00001000_00000500_000004A0_00000000_00000051 = some (.encaps 0 0x4A0 0x500 0x1000) := by decide
theorem test_decode_decaps : decodeTableWord 128 0x00001000_00000960_00000000_00000052 = some (.decaps 0 0x960 0x1000) := by decide

/-- 30_encoding.md R96: the reserved words beside the table's rows decode to nothing. -/
theorem test_reserved_words :
    ([0x06, 0x0F, 0x13, 0x1F, 0x23, 0x2F, 0x32, 0x3F, 0x48, 0x4F, 0x53, 0xFF, 0x100, 0x120, 0x80000001].map
      fun w => (decodeTableWord 32 w).isSome) = List.replicate 15 false := by decide

/-! ### Ill-formed operands -/

/-- The code of the check, 0 where it passes. -/
def codeOf (i : Instr) : Nat :=
  match check Params.default i with
  | some e => e.code.toNat
  | none => 0

theorem test_refused_prf_nonce : ¬(.prf 0 256 0x100 : Instr).wellFormed Params.default ∧ codeOf (.prf 0 256 0x100) = 2 := by decide
theorem test_refused_xof_index : ¬(.xof 0 0x10000 0x100 8 : Instr).wellFormed Params.default ∧ codeOf (.xof 0 0x10000 0x100 8) = 2 := by decide
theorem test_refused_samplentt_index : ¬(.samplentt 0 0 0x10000 : Instr).wellFormed Params.default ∧ codeOf (.samplentt 0 0 0x10000) = 2 := by decide
theorem test_refused_padd_dst : ¬(.padd 16 0 0 : Instr).wellFormed Params.default ∧ codeOf (.padd 16 0 0) = 3 := by decide
theorem test_refused_padd_a : ¬(.padd 0 16 0 : Instr).wellFormed Params.default ∧ codeOf (.padd 0 16 0) = 3 := by decide
theorem test_refused_padd_b : ¬(.padd 0 0 16 : Instr).wellFormed Params.default ∧ codeOf (.padd 0 0 16) = 3 := by decide
theorem test_refused_psub_a : ¬(.psub 0 16 0 : Instr).wellFormed Params.default ∧ codeOf (.psub 0 16 0) = 3 := by decide
theorem test_refused_ntt_dst : ¬(.ntt 16 0 : Instr).wellFormed Params.default ∧ codeOf (.ntt 16 0) = 3 := by decide
theorem test_refused_ntt_src : ¬(.ntt 0 16 : Instr).wellFormed Params.default ∧ codeOf (.ntt 0 16) = 3 := by decide
theorem test_refused_intt_src : ¬(.intt 0 16 : Instr).wellFormed Params.default ∧ codeOf (.intt 0 16) = 3 := by decide
theorem test_refused_basemul_b : ¬(.basemul 0 0 16 : Instr).wellFormed Params.default ∧ codeOf (.basemul 0 0 16) = 3 := by decide
theorem test_refused_cbd2_dst : ¬(.cbd2 16 0 : Instr).wellFormed Params.default ∧ codeOf (.cbd2 16 0) = 3 := by decide
theorem test_refused_samplentt_dst : ¬(.samplentt 16 0 0 : Instr).wellFormed Params.default ∧ codeOf (.samplentt 16 0 0) = 3 := by decide
theorem test_refused_enc12_src : ¬(.enc12 16 0 : Instr).wellFormed Params.default ∧ codeOf (.enc12 16 0) = 3 := by decide
theorem test_refused_dec12_dst : ¬(.dec12 16 0 : Instr).wellFormed Params.default ∧ codeOf (.dec12 16 0) = 3 := by decide
theorem test_refused_comp10_src : ¬(.comp10 16 0 : Instr).wellFormed Params.default ∧ codeOf (.comp10 16 0) = 3 := by decide
theorem test_refused_decomp10_dst : ¬(.decomp10 16 0 : Instr).wellFormed Params.default ∧ codeOf (.decomp10 16 0) = 3 := by decide
theorem test_refused_comp4_src : ¬(.comp4 16 0 : Instr).wellFormed Params.default ∧ codeOf (.comp4 16 0) = 3 := by decide
theorem test_refused_decomp4_dst : ¬(.decomp4 16 0 : Instr).wellFormed Params.default ∧ codeOf (.decomp4 16 0) = 3 := by decide
theorem test_refused_tomsg_src : ¬(.tomsg 16 0 : Instr).wellFormed Params.default ∧ codeOf (.tomsg 16 0) = 3 := by decide
theorem test_refused_frommsg_dst : ¬(.frommsg 16 0 : Instr).wellFormed Params.default ∧ codeOf (.frommsg 16 0) = 3 := by decide
theorem test_refused_sha3_512_len : ¬(.sha3_512 0 34 0x100 : Instr).wellFormed Params.default ∧ codeOf (.sha3_512 0 34 0x100) = 4 := by decide
theorem test_refused_keccakf_src : ¬(.keccakf 7993 0 : Instr).wellFormed Params.default ∧ codeOf (.keccakf 7993 0) = 5 := by decide
theorem test_refused_keccakf_dst : ¬(.keccakf 0 7993 : Instr).wellFormed Params.default ∧ codeOf (.keccakf 0 7993) = 5 := by decide
theorem test_refused_sha3_256_wrap : ¬(.sha3_256 0xFFFFFFFF 2 0x100 : Instr).wellFormed Params.default ∧ codeOf (.sha3_256 0xFFFFFFFF 2 0x100) = 5 := by decide
theorem test_refused_sha3_256_len : ¬(.sha3_256 0 8193 0x100 : Instr).wellFormed Params.default ∧ codeOf (.sha3_256 0 8193 0x100) = 5 := by decide
theorem test_refused_xof_len : ¬(.xof 0 0 8000 193 : Instr).wellFormed Params.default ∧ codeOf (.xof 0 0 8000 193) = 5 := by decide
theorem test_refused_cbd2_src : ¬(.cbd2 0 8065 : Instr).wellFormed Params.default ∧ codeOf (.cbd2 0 8065) = 5 := by decide
theorem test_refused_enc12_dst : ¬(.enc12 0 7809 : Instr).wellFormed Params.default ∧ codeOf (.enc12 0 7809) = 5 := by decide
theorem test_refused_dec12_region : ¬(.dec12 0 7809 : Instr).wellFormed Params.default ∧ codeOf (.dec12 0 7809) = 5 := by decide
theorem test_refused_comp10_region : ¬(.comp10 0 7873 : Instr).wellFormed Params.default ∧ codeOf (.comp10 0 7873) = 5 := by decide
theorem test_refused_decomp10_region : ¬(.decomp10 0 7873 : Instr).wellFormed Params.default ∧ codeOf (.decomp10 0 7873) = 5 := by decide
theorem test_refused_comp4_region : ¬(.comp4 0 8065 : Instr).wellFormed Params.default ∧ codeOf (.comp4 0 8065) = 5 := by decide
theorem test_refused_decomp4_region : ¬(.decomp4 0 8065 : Instr).wellFormed Params.default ∧ codeOf (.decomp4 0 8065) = 5 := by decide
theorem test_refused_tomsg_region : ¬(.tomsg 0 8161 : Instr).wellFormed Params.default ∧ codeOf (.tomsg 0 8161) = 5 := by decide
theorem test_refused_frommsg_region : ¬(.frommsg 0 8161 : Instr).wellFormed Params.default ∧ codeOf (.frommsg 0 8161) = 5 := by decide
theorem test_refused_samplentt_rho : ¬(.samplentt 0 8161 0 : Instr).wellFormed Params.default ∧ codeOf (.samplentt 0 8161 0) = 5 := by decide
theorem test_refused_keygen_sk : ¬(.keygen 0 32 64 5793 : Instr).wellFormed Params.default ∧ codeOf (.keygen 0 32 64 5793) = 5 := by decide
theorem test_refused_encaps_key : ¬(.encaps 0 1184 1216 8161 : Instr).wellFormed Params.default ∧ codeOf (.encaps 0 1184 1216 8161) = 5 := by decide
theorem test_refused_decaps_key : ¬(.decaps 0 2400 8161 : Instr).wellFormed Params.default ∧ codeOf (.decaps 0 2400 8161) = 5 := by decide
theorem test_refused_keccakf_in_place : ¬(.keccakf 0 0 : Instr).wellFormed Params.default ∧ codeOf (.keccakf 0 0) = 6 := by decide
theorem test_refused_keccakf_last_byte : ¬(.keccakf 0 199 : Instr).wellFormed Params.default ∧ codeOf (.keccakf 0 199) = 6 := by decide
theorem test_refused_sha3_512_overlap : ¬(.sha3_512 0 64 63 : Instr).wellFormed Params.default ∧ codeOf (.sha3_512 0 64 63) = 6 := by decide
theorem test_refused_prf_overlap : ¬(.prf 31 0 0 : Instr).wellFormed Params.default ∧ codeOf (.prf 31 0 0) = 6 := by decide
theorem test_refused_xof_overlap : ¬(.xof 8 0 0 9 : Instr).wellFormed Params.default ∧ codeOf (.xof 8 0 0 9) = 6 := by decide
theorem test_refused_keygen_d : ¬(.keygen 64 32 64 2000 : Instr).wellFormed Params.default ∧ codeOf (.keygen 64 32 64 2000) = 6 := by decide
theorem test_refused_keygen_outputs : ¬(.keygen 0 32 64 1247 : Instr).wellFormed Params.default ∧ codeOf (.keygen 0 32 64 1247) = 6 := by decide
theorem test_refused_encaps_outputs : ¬(.encaps 0 1184 1216 2303 : Instr).wellFormed Params.default ∧ codeOf (.encaps 0 1184 1216 2303) = 6 := by decide
theorem test_refused_encaps_m : ¬(.encaps 0 1184 1200 4000 : Instr).wellFormed Params.default ∧ codeOf (.encaps 0 1184 1200 4000) = 6 := by decide
theorem test_refused_decaps_ct : ¬(.decaps 0 2400 3487 : Instr).wellFormed Params.default ∧ codeOf (.decaps 0 2400 3487) = 6 := by decide

/-- 20_memory.md R64: an empty region is in range at every address. -/
theorem test_accepted_empty_region : codeOf (.sha3_256 0xFFFFFFFF 0 0) = 0 ∧ codeOf (.xof 0 0 0xFFFFFFFF 0) = 0 := by decide

/-- 60_exceptions.md R343: the first failing check gives the code. -/
theorem test_check_priority :
    codeOf (.samplentt 16 8161 0x10000) = 2 ∧ codeOf (.samplentt 16 8161 0) = 3 ∧ codeOf (.sha3_512 8190 5 8190) = 4 ∧
      codeOf (.prf 8190 0 8190) = 5 := by decide

/-! ### Small states -/

/-- The state after reset with a command pending. -/
def pendingState (w : Word) (a : Args) : State :=
  { State.reset with pending := some { cmd := ⟨w, a⟩, races := [], effort := 0 } }

/-- A register whose first cells are given, the rest 0. -/
def polyOf (l : List Nat) : Poly := Poly.ofCoeffs l

/-- The state after reset with three polynomial registers written: one canonical, one canonical, one not. -/
def pregState : State :=
  { State.reset with pregs := [(0, polyOf [3000, 5]), (1, polyOf [1000, 7]), (2, polyOf [3329])] }

/-- The first coefficients of a register after a step, none where it did not answer a next state. -/
def cellsOf (o : Host.Outcome State Fault Refusal) (r n : Nat) : List Nat :=
  match o with
  | .next t => (t.preg r).coeffs.take n
  | .fault _ => []
  | .refused _ => []

/-- The bytes of MEM after a step. -/
def bytesOf (o : Host.Outcome State Fault Refusal) (a n : Nat) : List Byte :=
  match o with
  | .next t => t.readBytes a n
  | .fault _ => []
  | .refused _ => []

/-- The registers the host reads after a step: STATUS and RESULT. -/
def wordsOf (o : Host.Outcome State Fault Refusal) : List Word :=
  match o with
  | .next t => [t.statusWord, t.resultWord]
  | .fault _ => []
  | .refused _ => []

/-! ### Vectors of 95_test_vectors.md -/

/-- V2, first 16 bytes. -/
theorem test_keccakf_zero : (keccakFBytes (List.replicate 200 0)).take 16 = [0xe7, 0xdd, 0xe1, 0x40, 0x79, 0x8f, 0x25, 0xf1, 0x8a, 0x47, 0xc0, 0x33, 0xf9, 0xcc, 0xd5, 0x84] := by
  rw [← fastKeccakBytes_eq]; decide +kernel

/-- V3, the empty string. -/
theorem test_sha3_256_empty : hashH [] =
    [0xa7, 0xff, 0xc6, 0xf8, 0xbf, 0x1e, 0xd7, 0x66, 0x51, 0xc1, 0x47, 0x56, 0xa0, 0x61, 0xd6, 0x62, 0xf5, 0x80, 0xff, 0x4d, 0xe4, 0x3b, 0x49, 0xfa, 0x82, 0xd8, 0x0a, 0x4b, 0x80, 0xf8, 0x43, 0x4a] := by
  rw [hashH, sponge_short _ _ _ _ (by decide) (by decide)]; decide +kernel

/-- V4, 33 zero bytes, first 16 bytes. -/
theorem test_sha3_512_zero : (hashG (List.replicate 33 0)).take 16 = [0x8d, 0x94, 0xb4, 0xa1, 0x04, 0x95, 0xff, 0x5f, 0x98, 0xdf, 0x8c, 0xeb, 0x6d, 0xf0, 0xeb, 0x39] := by
  rw [hashG, sponge_short _ _ _ _ (by decide) (by decide)]; decide +kernel

/-- V7: both pad bytes fall on one byte. -/
theorem test_sha3_256_onePadByte : hashH (List.replicate 135 0x61) =
    [0x80, 0x94, 0xbb, 0x53, 0xc4, 0x4c, 0xfb, 0x1e, 0x67, 0xb7, 0xc3, 0x04, 0x47, 0xf9, 0xa1, 0xc3, 0x36, 0x96, 0xd2, 0x46, 0x3e, 0xcc, 0x1d, 0x9c, 0x92, 0x53, 0x89, 0x13, 0x39, 0x28, 0x43, 0xc9] := by
  rw [hashH, sponge_short _ _ _ _ (by simp) (by decide)]; decide +kernel

/-- V7: the message fills a block, and the padding takes a second one. -/
theorem test_sha3_256_twoBlocks : hashH (List.replicate 136 0x61) =
    [0x3f, 0xc5, 0x55, 0x9f, 0x14, 0xdb, 0x8e, 0x45, 0x3a, 0x0a, 0x30, 0x91, 0xed, 0xbd, 0x2b, 0xc2, 0x5e, 0x11, 0x52, 0x8d, 0x81, 0xc6, 0x6f, 0xa5, 0x70, 0xa4, 0xef, 0xdc, 0xc2, 0x69, 0x5e, 0xe1] := by
  rw [hashH, sponge_twoBlocks _ _ _ _ (by simp) (by decide)]; decide +kernel

/-- V7: two absorbed blocks at the XOF rate, first 16 bytes. -/
theorem test_shake128_twoBlocks : sponge (List.replicate 168 0) 168 0x1F 16 =
    [0x7c, 0x00, 0xff, 0x47, 0x48, 0x87, 0x0c, 0xb2, 0x6d, 0xa4, 0xdc, 0x07, 0x8a, 0xff, 0x74, 0x47] := by
  rw [sponge_twoBlocks _ _ _ _ (by rw [List.length_replicate]) (by decide)]; decide +kernel

/-- V18: three XOF windows, the last four coefficients. -/
theorem test_samplentt_threeWindows :
    (sampleNtt 3 (List.replicate 32 0) 0 0).map (·.drop 252) = some [3223, 2753, 355, 2067] := by
  rw [sampleNtt, xofBytes, sponge_oneIn _ _ _ _ (by simp)]; decide +kernel

/-- V6, first 16 bytes. -/
theorem test_prf_zero : (prfBytes (List.replicate 32 0) 0).take 16 = [0xc0, 0x3f, 0xcc, 0x81, 0xe7, 0x36, 0x09, 0x87, 0x5b, 0x3b, 0x98, 0xcb, 0x94, 0x1c, 0x78, 0x06] := by
  rw [prfBytes, sponge_short _ _ _ _ (by decide) (by decide)]; decide +kernel

/-- V5, second line: b32 is the byte after ρ. -/
theorem test_xof_index : xofBytes (List.replicate 32 0) 1 0 16 = [0x6d, 0xb5, 0xd4, 0x62, 0x0c, 0x5a, 0xb0, 0x79, 0x2a, 0x41, 0xc6, 0xca, 0x40, 0x66, 0xf2, 0xf3] := by
  rw [xofBytes, sponge_short _ _ _ _ (by decide) (by decide)]; decide +kernel

/-- P3 (R135): an ill-aligned but legal empty input runs, here up to STATUS. -/
theorem test_xof_empty : wordsOf (exec (.xof 0 0 0xFFFFFFFF 0) State.reset) = [2, 0] := by decide

/-- V10. -/
theorem test_mulmod_signed : wordsOf (exec (.mulmod 0xFFFFF300 3328) State.reset) = [2, 3328] := by decide

/-- V10. -/
theorem test_mulmod_root : wordsOf (exec (.mulmod 1729 17) State.reset) = [2, 0x0AC9] := by decide

/-- R330: NOP leaves STATUS = 2. -/
theorem test_nop : wordsOf (step (pendingState 0 Args.zero)) = [2, 0] := by decide

/-- V4, third row: BAD_LEN gives STATUS = 0x0406. -/
theorem test_bad_len_status : wordsOf (exec (.sha3_512 0 0 0x100) State.reset) = [0x0406, 0] := by decide

/-- V10. -/
theorem test_padd : cellsOf (exec (.padd 0 0 1) pregState) 0 3 = [671, 12, 0] := by decide +kernel

/-- V10, with the destination one of the sources. -/
theorem test_psub : cellsOf (exec (.psub 1 1 0) pregState) 1 3 = [1329, 2, 0] := by decide +kernel

/-- V11, first line. -/
theorem test_ntt_delta : (ntt (1 :: List.replicate 255 0)).take 6 = [1, 0, 1, 0, 1, 0] := by decide +kernel

/-- V12, second line. -/
theorem test_intt_ones : (intt (List.replicate 256 1)).take 4 = [1, 1, 0, 0] := by decide +kernel

/-- V15. -/
theorem test_basemul : (basemul ([5, 7, 5, 7] ++ List.replicate 252 0) ([11, 13, 11, 13] ++ List.replicate 252 0)).take 5 =
    [1602, 142, 1837, 142, 0] := by decide +kernel

/-- V16. -/
theorem test_cbd2 : cbd2 [0x03, 0x0c, 0x3f, 0xc3, 0x5a, 0xa5, 0x12, 0x34] =
    [2, 0, 3327, 0, 0, 2, 2, 3327, 0, 0, 0, 0, 1, 1, 3328, 2] := by decide

/-- V17: the triples of the table. -/
theorem test_parse_triples : parseLoop [0xff, 0xff, 0xff, 0x01, 0x0d, 0xd0, 0x00, 0xd0, 0x0c] [] = [3328, 0, 205] := by
  decide

/-- V18: the first values, from the first 12 bytes of the V5 stream. -/
theorem test_samplentt_head : (parseLoop [0x49, 0xdf, 0xd9, 0x80, 0x9b, 0xbc, 0x54, 0x01, 0x4a, 0xab, 0xcc, 0x6a] []).take 4 = [2944, 3017, 340, 1184] := by decide

/-- V19. -/
theorem test_enc12 : (enc12 (List.range 256)).take 12 = [0x00, 0x10, 0x00, 0x02, 0x30, 0x00, 0x04, 0x50, 0x00, 0x06, 0x70, 0x00] := by decide +kernel

/-- V19. -/
theorem test_dec12 : (dec12 ([0x23, 0x61, 0x45] ++ List.replicate 381 0)).take 3 = [0x123, 0x456, 0] := by decide +kernel

/-- V20. -/
theorem test_comp10 : (comp10 ([3328, 3327, 1664, 0] ++ List.replicate 252 0)).take 5 = [0x00, 0xfc, 0x0f, 0x20, 0x00] := by
  decide +kernel

/-- V20. -/
theorem test_decomp10 : (decomp10 ([0x01, 0x08, 0x30, 0x00, 0x01] ++ List.replicate 315 0)).take 4 = [3, 7, 10, 13] := by
  decide +kernel

/-- V22. -/
theorem test_comp4 : (comp4 ([3328, 3225, 3224, 1664] ++ List.replicate 252 0)).take 2 = [0x00, 0x8f] := by decide +kernel

/-- R265's example. -/
theorem test_decomp4 : (decomp4 (0x21 :: List.replicate 127 0)).take 2 = [208, 416] := by decide +kernel

/-- V21, second line. -/
theorem test_tomsg : (decodeMsg ([832, 833, 2496, 2497, 1665, 0, 3328, 1664] ++ List.replicate 248 0)).take 1 = [0x96] := by
  decide +kernel

/-- V21, first line. -/
theorem test_frommsg : (encodeMsg (0x8D :: List.replicate 31 0)).take 8 = [1665, 0, 1665, 1665, 0, 0, 0, 1665] := by
  decide +kernel

/-! ### Host events -/

/-- A state whose next event is a host access. -/
def hostState (h : HostAccess) : State := { State.reset with agenda := [.host h] }

/-- 10_state.md R27, R346: a CMD write while BUSY sets OVERRUN; STATUS is BUSY and OVERRUN. -/
theorem test_overrun : wordsOf (step { pendingState 0 Args.zero with agenda := [.host (.write 8 4 0)] }) = [9, 0] := by decide

/-- 20_memory.md R60: the byte at the lowest address is the lowest of the data word. -/
theorem test_mem_write : bytesOf (step (hostState (.write 0x2004 4 0x11223344))) 4 4 = [0x44, 0x33, 0x22, 0x11] := by decide

/-- 20_memory.md R62: a 16-bit register access, a misaligned MEM access, one across the end of the window. -/
theorem test_refusals :
    (step (hostState (.read 0 2)) matches .refused .registerAccess) ∧
      (step (hostState (.read 0x2001 2)) matches .refused .memAccess) ∧
      (step (hostState (.write 0x4000 1 0)) matches .refused .beyondWindow) := by decide

/-! ### Witnesses: states and operands that meet the hypotheses of the statements -/

/-- O4: the first and the last word of each reserved range, and words with high bits, pending after reset. -/
theorem witness_IllegalWordsCompleteWithCodeOne :
    ∀ w ∈ [0x06, 0x0F, 0x13, 0x1F, 0x23, 0x2F, 0x32, 0x3F, 0x48, 0x4F, 0x53, 0xFF, 0x100, 0xFFFFFFFF],
      (pendingState (BitVec.ofNat 32 w) Args.zero).Inv ∧
      (pendingState (BitVec.ofNat 32 w) Args.zero).fetch = some ⟨BitVec.ofNat 32 w, Args.zero⟩ ∧
      reservedWord (BitVec.ofNat 32 w).toNat := by
  intro w hw
  refine ⟨⟨show Params.default.legal by decide, List.Pairwise.nil, by simp [pendingState, State.reset],
    List.Pairwise.nil, by simp [pendingState, State.reset], by simp [pendingState, State.reset],
    by simp [pendingState, State.reset], by simp [pendingState, State.reset], by simp [pendingState, State.races],
    by simp [pendingState, State.reset]⟩, rfl, ?_⟩
  simp only [List.mem_cons, List.not_mem_nil, or_false] at hw
  rcases hw with rfl | rfl | rfl | rfl | rfl | rfl | rfl | rfl | rfl | rfl | rfl | rfl | rfl | rfl <;>
    · unfold reservedWord; decide

/-- O5: a pending NTT with an empty agenda, with an engine turn to come, an idle state of each kind, a placed word. -/
theorem witness_StepRunsTheDecodedCommand :
    (pendingState 0x20 ⟨1, 0, 0, 0⟩).fetch = some ⟨0x20, ⟨1, 0, 0, 0⟩⟩ ∧
      decodeCommand ⟨0x20, ⟨1, 0, 0, 0⟩⟩ = .ok (.ntt 1 0) ∧ (pendingState 0x20 ⟨1, 0, 0, 0⟩).agenda = [] ∧
      { pendingState 0x20 ⟨1, 0, 0, 0⟩ with agenda := [.engine] }.fetch = some ⟨0x20, ⟨1, 0, 0, 0⟩⟩ ∧
      State.reset.pending = none ∧ { State.reset with agenda := [.engine] }.pending = none ∧
      decodeTableWord 96 0x00000000_00000001_00000020 = some (.ntt 1 0) := by decide

/-- O6: an issue with an engine turn after it, `wait` on DONE = 1 and on DONE = 0, and NOP with `wait`, which completes. -/
theorem witness_IssueThenEngineTurnRunsTheCommand :
    { State.reset with agenda := issueEvents Params.default (.ntt 1 0) ++ [Event.engine] }.pending = none ∧
    { State.reset with agenda := waitEvents, done := true }.agenda = waitEvents ++ [] ∧
    { State.reset with agenda := waitEvents }.agenda = waitEvents ++ [] ∧ State.reset.done = false ∧
    { State.reset with agenda := issueEvents Params.default .nop ++ (waitEvents ++ []) }.pending = none ∧
    (∃ t, exec .nop { State.reset with
        args := (encode .nop).args, done := false, err := false, errcode := 0, agenda := waitEvents ++ []
        readData := some (if State.reset.overrun then 0x9 else 0x1)
        pending := some { cmd := encode .nop, races := [], effort := 0 } } = .next t ∧ t.done = true) :=
  ⟨rfl, rfl, rfl, rfl, rfl, _, rfl, rfl⟩

/-- 47_system.md R330: `issue NOP; wait` leaves STATUS = 0x0000_0002, and the host reads it. -/
theorem test_issue_nop_wait :
    (match core.run 8 { State.reset with agenda := issueEvents Params.default .nop ++ waitEvents } with
      | .next t => (t.statusWord, t.readData, t.agenda)
      | _ => (0, none, [])) = (2, some 2, []) := by decide

/-- The state after reset meets the invariant (used by the witnesses only; the statement is O8). -/
theorem witness_StepKeepsTheInvariant : ∃ s t : State, s.Inv ∧ step s = .next t ∧ t ≠ s := by
  refine ⟨pendingState 0 Args.zero, _, ⟨by decide, List.Pairwise.nil,
    by simp [pendingState, State.reset], List.Pairwise.nil, by simp [pendingState, State.reset],
    by simp [pendingState, State.reset], by simp [pendingState, State.reset], by simp [pendingState, State.reset],
    by simp [pendingState, State.races], by simp [pendingState, State.reset]⟩, rfl, by decide⟩

/-- O9: defined accesses at both ends of the register block and of the window, and undefined ones beside them. -/
theorem witness_UndefinedAccessesAreRefused :
    (∀ h ∈ [HostAccess.read 0 4, .read 0x1FFC 4, .write 0x2000 1 0, .read 0x3FFF 1, .write 0x3FFE 2 0, .read 0x3FFC 4],
      (hostState h).agenda = [.host h] ∧ (hostState h).params.base ≤ h.addr ∧ h.defined (hostState h).params) ∧
    (∀ h ∈ [HostAccess.read 2 4, .read 0 2, .write 0x1FFF 1 0, .read 0x2001 2, .write 0x2002 4 0, .read 0x2000 8,
        .read 0x3FFE 4, .write 0x4000 1 0],
      (hostState h).agenda = [.host h] ∧ (hostState h).params.base ≤ h.addr ∧ ¬h.defined (hostState h).params) := by
  unfold HostAccess.defined; decide

/-- O10. -/
theorem witness_PowerOnResetState : { State.reset with agenda := [.powerOn] }.agenda = .powerOn :: [] := rfl

/-- O11: with a command pending that has an output region, and idle; byte 200 is in the region, byte 199 is not. -/
theorem witness_SoftResetState :
    { pendingState 0x01 ⟨0, 200, 0, 0⟩ with agenda := [.host (.write 0 4 3)] }.agenda =
      .host (.write State.reset.params.base 4 3) :: [] ∧
    (hostState (.write 0 4 1)).agenda = .host (.write State.reset.params.base 4 1) :: [] ∧
    (3 : Word).getLsbD 0 = true ∧ (1 : Word).getLsbD 0 = true ∧
    (pendingState 0x01 ⟨0, 200, 0, 0⟩).inOutputs 200 = true ∧ (pendingState 0x01 ⟨0, 200, 0, 0⟩).inOutputs 199 = false := by
  decide

/-- O12, O13: every register offset, and the ends of the reserved ranges. -/
theorem witness_RegisterReads :
    ∀ o ∈ [0x000, 0x004, 0x008, 0x00C, 0x010, 0x014, 0x018, 0x01C, 0x020, 0x024, 0x1FFC],
      (hostState (.read (State.reset.params.base + o) 4)).agenda =
        .host (.read (State.reset.params.base + o) 4) :: [] ∧ o % 4 = 0 ∧ o < 0x2000 := by decide

/-- O13. -/
theorem witness_ReservedAccesses :
    (∀ o ∈ [0x00C, 0x024, 0x1FFC], o % 4 = 0 ∧ (o = 0x00C ∨ (0x024 ≤ o ∧ o < 0x2000)) ∧
      (hostState (.write (State.reset.params.base + o) 4 7)).agenda =
        .host (.write (State.reset.params.base + o) 4 7) :: []) ∧
    (0xFFFFFFFE : Word).extractLsb' 0 2 = (2 : Word).extractLsb' 0 2 ∧
    (0xFFFFFFF1 : Word).extractLsb' 1 3 = (0 : Word).extractLsb' 1 3 := by decide

/-- O14. -/
theorem witness_StatusWriteOneToClear :
    (hostState (.write 4 4 0xE)).agenda = .host (.write (State.reset.params.base + 0x004) 4 0xE) :: [] := by decide

/-- O15: both values of SRST. -/
theorem witness_CtrlFields :
    (hostState (.write 0 4 2)).agenda = .host (.write State.reset.params.base 4 2) :: [] ∧
    (hostState (.write 0 4 3)).agenda = .host (.write State.reset.params.base 4 3) :: [] ∧
    (2 : Word).getLsbD 0 = false ∧ (3 : Word).getLsbD 0 = true := by decide

/-- O16, O17: busy and idle. -/
theorem witness_CmdWrites :
    { pendingState 0 Args.zero with agenda := [.host (.write 8 4 0x20)] }.agenda =
      .host (.write (State.reset.params.base + 0x008) 4 0x20) :: [] ∧
    { pendingState 0 Args.zero with agenda := [.host (.write 8 4 0x20)] }.busy = true ∧
    (hostState (.write 8 4 0x20)).agenda = .host (.write (State.reset.params.base + 0x008) 4 0x20) :: [] ∧
    (hostState (.write 8 4 0x20)).busy = false ∧
    (hostState (.read 8 4)).agenda = .host (.read (State.reset.params.base + 0x008) 4) :: [] := by decide

/-- O17. -/
theorem witness_SnapshotIsolatesTheCommand :
    (∃ t, engineStep (pendingState 0x10 ⟨2, 3, 0, 0⟩) = .next t ∧ t.result = 6) ∧
    (hostState (.write 8 4 0x10)).busy = false := ⟨⟨_, rfl, by decide⟩, by decide⟩

/-- O18: a write to each ARG register, and a reset, change one. -/
theorem witness_ArgRegistersAreStorage :
    (∀ o ∈ [0x010, 0x014, 0x018, 0x01C], ∃ t, step (hostState (.write o 4 9)) = .next t ∧ t.args ≠ Args.zero) ∧
    (∃ t, step { hostState (.write 0 4 1) with args := ⟨1, 2, 3, 4⟩ } = .next t ∧ t.args ≠ ⟨1, 2, 3, 4⟩) ∧
    (∃ t, step { State.reset with args := ⟨1, 2, 3, 4⟩, agenda := [.powerOn] } = .next t ∧ t.args ≠ ⟨1, 2, 3, 4⟩) := by
  refine ⟨?_, ⟨_, rfl, by decide⟩, ⟨_, rfl, by decide⟩⟩
  intro o ho
  simp only [List.mem_cons, List.not_mem_nil, or_false] at ho
  rcases ho with rfl | rfl | rfl | rfl <;> exact ⟨_, rfl, by decide⟩

/-- O19: a MULMOD and a reset change RESULT. -/
theorem witness_OnlyMulmodWritesResult :
    (∃ t, step (pendingState 0x10 ⟨2, 3, 0, 0⟩) = .next t ∧ t.result ≠ 0) ∧
    (∃ t, step { hostState (.write 0 4 1) with result := 7 } = .next t ∧ t.result ≠ 7) ∧
    (hostState (.write 0x20 4 7)).agenda = .host (.write ((hostState (.write 0x20 4 7)).params.base + 0x020) 4 7) :: [] :=
  ⟨⟨_, rfl, by decide⟩, ⟨_, rfl, by decide⟩, rfl⟩

/-- O20: irq falls by each of its causes, and rises by each of its causes. -/
theorem witness_InterruptLevel :
    (∀ h ∈ [HostAccess.write 0 4 1, .write 0 4 0, .write 4 4 2, .write 8 4 0],
      ∃ t, step { hostState h with ie := true, done := true } = .next t ∧ t.irq = false) ∧
    { State.reset with ie := true, done := true }.irq = true ∧
    (∃ t, step { pendingState 0 Args.zero with ie := true } = .next t ∧ t.irq = true) ∧
    (∃ t, step { hostState (.write 0 4 2) with done := true } = .next t ∧ t.irq = true) := by
  refine ⟨?_, rfl, ⟨_, rfl, by decide⟩, ⟨_, rfl, by decide⟩⟩
  intro h hh
  simp only [List.mem_cons, List.not_mem_nil, or_false] at hh
  rcases hh with rfl | rfl | rfl | rfl <;> exact ⟨_, rfl, by decide⟩

/-- O21: the first and the last access of each width, away from the regions of a running KECCAKF. -/
theorem witness_MemWindowAccesses :
    ∀ e ∈ [(400, 1), (400, 2), (400, 4), (8191, 1), (8190, 2), (8188, 4)],
      (e.2 = 1 ∨ e.2 = 2 ∨ e.2 = 4) ∧ e.1 % e.2 = 0 ∧ e.1 + e.2 ≤ State.reset.params.memSize ∧
      ∀ k, k < e.2 → (pendingState 0x01 ⟨0, 200, 0, 0⟩).inRegions (e.1 + k) = false := by decide

/-- A KECCAKF of bytes 0 to 199 into 200 to 399 that the host raced on at byte 5. -/
def racedState : State :=
  { State.reset with pending := some { cmd := ⟨0x01, ⟨0, 200, 0, 0⟩⟩, races := [5], effort := 0 } }

/-- A KECCAKF whose regions overlap by a byte, that the host raced on. -/
def racedFailState : State :=
  { State.reset with pending := some { cmd := ⟨0x01, ⟨0, 199, 0, 0⟩⟩, races := [5], effort := 0 } }

/-- O22: bytes inside and outside the regions at their ends, a raced command, and a raced one that fails its check. -/
theorem witness_RacesGiveAny :
    (pendingState 0x01 ⟨0, 200, 0, 0⟩).inRegions 0 = true ∧ (pendingState 0x01 ⟨0, 200, 0, 0⟩).inOutputs 0 = false ∧
    (pendingState 0x01 ⟨0, 200, 0, 0⟩).inOutputs 399 = true ∧ (pendingState 0x01 ⟨0, 200, 0, 0⟩).inRegions 400 = false ∧
    (Instr.keccakf 0 200).wellFormed racedState.params ∧ racedState.races ≠ [] ∧
    loopsStopped racedState.windows (.keccakf 0 200) racedState = true ∧
    racedFailState.fetch = some ⟨0x01, ⟨0, 199, 0, 0⟩⟩ ∧ decodeCommand ⟨0x01, ⟨0, 199, 0, 0⟩⟩ = .ok (.keccakf 0 199) ∧
    expectedCode racedFailState.params (.keccakf 0 199) ≠ 0 ∧ racedFailState.races ≠ [] := by decide

/-- O23: an accepted and a failed command, a byte outside the outputs, and another MEM that agrees on the inputs. -/
theorem witness_CommandsTouchOnlyTheirRegions :
    State.reset.races = [] ∧ ¬(Instr.keccakf 0 0).wellFormed State.reset.params ∧
    (Instr.keccakf 0 200).wellFormed State.reset.params ∧
    (∀ o ∈ outputs (Instr.keccakf 0 200), o.has 199 = false ∧ o.has 400 = false) ∧
    (pendingState 0x01 ⟨0, 200, 0, 0⟩).busy = true ∧ (pendingState 0x01 ⟨0, 200, 0, 0⟩).races = [] ∧
    (∃ t, exec (.keccakf 0 200) (pendingState 0x01 ⟨0, 200, 0, 0⟩) = .next t ∧ t.busy = false) ∧
    (∃ t, exec (.keccakf 0 200) State.reset = .next t) ∧
    (∃ t, exec (.keccakf 0 200) { State.reset with mem := [(200, 1)] } = .next t) ∧
    (∀ r ∈ inputs (Instr.keccakf 0 200), ∀ x, r.has x = true →
      { State.reset with mem := [(200, 1)] }.readByte x = State.reset.readByte x) := by
  refine ⟨rfl, by decide, by decide, by decide, rfl, rfl, ⟨_, rfl, rfl⟩, ⟨_, rfl⟩, ⟨_, rfl⟩, ?_⟩
  intro r hr x hx
  have hr' : r = ⟨0, 200⟩ := by simpa [inputs, operands] using hr
  subst hr'
  have hx' : x < 200 := by simpa [Region.has] using hx
  have hne : ¬200 = x := by omega
  simp [State.readByte, lookup, State.reset, hne]

/-- O24: an illegal word, and commands that fail with each of the codes 2 to 6. -/
theorem witness_FailedChecksInOrder :
    (pendingState 0x06 Args.zero).races = [] ∧ (∀ row ∈ opcodeMap, (0x06 : Word).toNat ≠ row.1) ∧
    (pendingState 0x04 ⟨0, 256, 100, 0⟩).fetch = some ⟨0x04, ⟨0, 256, 100, 0⟩⟩ ∧
    decodeCommand ⟨0x04, ⟨0, 256, 100, 0⟩⟩ = .ok (.prf 0 256 100) ∧
    [expectedCode Params.default (.prf 0 256 100), expectedCode Params.default (.ntt 0 16),
      expectedCode Params.default (.sha3_512 0 34 100), expectedCode Params.default (.cbd2 0 8065),
      expectedCode Params.default (.keccakf 0 199)] = [2, 3, 4, 5, 6] := by decide

/-- Commands whose argument check passes are well-formed: what a list of them is checked by. -/
theorem wellFormed_of_checks (p : Params) (l : List Instr) (h : ∀ i ∈ l, check p i = none) :
    ∀ i ∈ l, i.wellFormed p :=
  fun i hi => (Sys2Proof.Laws.check_none_iff_wellFormed p i).mp (h i hi)

/-- O25 to O28 and O33 to O38: well-formed operands of each command, at the ends of MEM and of P, and no race. -/
theorem witness_wellFormed :
    State.reset.races = [] ∧
    ∀ i ∈ [Instr.keccakf 7792 7992, .sha3_256 0 8160 8160, .sha3_256 0xFFFFFFFF 0 8160, .sha3_512 8000 33 8064,
        .sha3_512 8128 64 0, .prf 8160 255 0, .xof 8160 0xFFFF 0 8160, .xof 0 0 0xFFFFFFFF 0, .cbd2 15 8064] ++
      [Instr.samplentt 15 8160 0xFFFF, .enc12 15 7808, .dec12 15 7808, .comp10 15 7872, .decomp10 15 7872,
        .comp4 15 8064, .decomp4 15 8064, .tomsg 15 8160, .frommsg 15 8160],
      i.wellFormed State.reset.params := by
  exact ⟨rfl, wellFormed_of_checks _ _ (by decide)⟩

/-- O29: operands at the ends of the contract, and just outside. -/
theorem witness_MulmodCompletes :
    State.reset.races = [] ∧ (0xFFFFF300 : Word).toInt = -3328 ∧ (3328 : Word).toInt = 3328 ∧
    (3329 : Word).toInt = 3329 ∧ (0xFFFFF2FF : Word).toInt = -3329 := by decide

/-- O30 to O32, O36: canonical registers; O33, O37: a register that is not. -/
theorem witness_registers :
    isPreg pregState.params 0 ∧ isPreg pregState.params 15 ∧ pregState.races = [] ∧
    canonical (pregState.preg (0 : Word).toNat).coeffs = true ∧ canonical (pregState.preg (1 : Word).toNat).coeffs = true ∧
    canonical (pregState.preg (2 : Word).toNat).coeffs = false ∧
    (∀ i ∈ [Instr.enc12 0 0, .comp10 0 0, .comp4 0 0, .tomsg 0 0, .enc12 2 0, .comp10 2 0, .comp4 2 0, .tomsg 2 0],
      i.wellFormed pregState.params) := by
  exact ⟨by decide, by decide, rfl, by decide +kernel, by decide +kernel, by decide +kernel,
    wellFormed_of_checks _ _ (by decide)⟩

/-- O34, O54, O56: lists of the lengths asked for, canonical ones and byte strings. -/
theorem witness_lists :
    (List.replicate 128 (0xFF : Byte)).length = 128 ∧ (List.replicate 256 3328).length = 256 ∧
    canonical (List.replicate 256 3328) = true ∧ (∀ x ∈ List.replicate 256 4095, x < 4096) ∧
    (∀ x ∈ List.replicate 256 1, x < 2) ∧ (∀ x ∈ List.replicate 256 15, x < 2 ^ 4) ∧
    (∀ x ∈ List.replicate 256 1023, x < 2 ^ 10) ∧ (List.replicate 384 (0xFF : Byte)).length = 384 ∧
    (List.replicate 32 (0xFF : Byte)).length = 32 := by decide +kernel

/-- O49: a message that leaves room in the last block, one whose two pad bytes fall on one byte, 71 bytes, a string of
200 bytes and a state of 25 lanes. -/
theorem witness_SpongePadding :
    (List.replicate 134 (0x61 : Byte)).length + 1 < (134 / 136 + 1) * 136 ∧
    (List.replicate 135 (0x61 : Byte)).length + 1 = (135 / 136 + 1) * 136 ∧
    (List.replicate 71 (0 : Byte)).length ≤ 71 ∧ (List.replicate 200 (0 : Byte)).length = 200 ∧
    (List.replicate 25 (0 : Lane)).length = 25 := by decide +kernel

/-! ### Witnesses of the rejection loops: ρ of V23 -/

/-- d of V23. -/
def seedD : List Byte := (List.range 32).map (BitVec.ofNat 8)

/-- ρ of V23. -/
def rhoV : List Byte :=
  [0x5e, 0x43, 0x48, 0x1c, 0x3e, 0xeb, 0x39, 0x7e, 0xb1, 0x92, 0x50, 0x52, 0x29, 0xb6, 0x7a, 0x20, 0x1e, 0xa8, 0x93, 0xc3, 0xe2, 0xcb, 0x32, 0xda, 0x8b, 0xc3, 0x42, 0xfa, 0x4d, 0xea, 0x05, 0x78]

/-- V23: G(d ∥ 03) = ρ ∥ σ. -/
theorem test_keygen_seed : slice (hashG (seedD ++ [0x03])) 0 32 = rhoV := by
  rw [hashG, sponge_short _ _ _ _ (by decide) (by decide)]; decide +kernel

/-- The rejection sampler stops within `n` windows on ρ of V23 for the index (j, i). -/
def StopsAt (n : Nat) (j i : Byte) : Prop :=
  256 ≤ acceptedWindows n
    (fastKeccakBytes (xorInto (List.replicate 200 0) ((padded (rhoV ++ [j, i]) 168 0x1F).take 168)))

theorem stops_00 : StopsAt 3 0#8 0#8 := by unfold StopsAt; decide +kernel
theorem stops_10 : StopsAt 3 1#8 0#8 := by unfold StopsAt; decide +kernel
theorem stops_20 : StopsAt 3 2#8 0#8 := by unfold StopsAt; decide +kernel
theorem stops_01 : StopsAt 3 0#8 1#8 := by unfold StopsAt; decide +kernel
theorem stops_11 : StopsAt 3 1#8 1#8 := by unfold StopsAt; decide +kernel
theorem stops_21 : StopsAt 4 2#8 1#8 := by unfold StopsAt; decide +kernel
theorem stops_02 : StopsAt 3 0#8 2#8 := by unfold StopsAt; decide +kernel
theorem stops_12 : StopsAt 3 1#8 2#8 := by unfold StopsAt; decide +kernel
theorem stops_22 : StopsAt 3 2#8 2#8 := by unfold StopsAt; decide +kernel
theorem sample_stops {n : Nat} {j i : Byte} (hn : n ≤ 8) (h : StopsAt n j i) : ∃ f, sampleNtt 8 rhoV j i = some f :=
  Option.isSome_iff_exists.mp (sampleNtt_isSome (by decide) hn h)

/-- The matrix of ρ of V23 is complete within eight windows. -/
theorem matrix_stops : ∃ A, genMatrix 8 rhoV = some A := by
  obtain ⟨a, ha⟩ := sample_stops (by decide) stops_00
  obtain ⟨b, hb⟩ := sample_stops (by decide) stops_10
  obtain ⟨c, hc⟩ := sample_stops (by decide) stops_20
  obtain ⟨d, hd⟩ := sample_stops (by decide) stops_01
  obtain ⟨e, he⟩ := sample_stops (by decide) stops_11
  obtain ⟨f, hf⟩ := sample_stops (by decide) stops_21
  obtain ⟨g, hg⟩ := sample_stops (by decide) stops_02
  obtain ⟨h, hh⟩ := sample_stops (by decide) stops_12
  obtain ⟨i, hi⟩ := sample_stops (by decide) stops_22
  refine ⟨[[a, b, c], [d, e, f], [g, h, i]], ?_⟩
  have hr : genMatrix 8 rhoV = allSome
      [allSome [sampleNtt 8 rhoV 0#8 0#8, sampleNtt 8 rhoV 1#8 0#8, sampleNtt 8 rhoV 2#8 0#8],
        allSome [sampleNtt 8 rhoV 0#8 1#8, sampleNtt 8 rhoV 1#8 1#8, sampleNtt 8 rhoV 2#8 1#8],
        allSome [sampleNtt 8 rhoV 0#8 2#8, sampleNtt 8 rhoV 1#8 2#8, sampleNtt 8 rhoV 2#8 2#8]] := rfl
  rw [hr, ha, hb, hc, hd, he, hf, hg, hh, hi]
  rfl

theorem slice_mid (A B C : List Byte) {a b : Nat} (ha : A.length = a) (hb : a + B.length = b) :
    slice (A ++ B ++ C) a b = B := by
  subst ha hb
  rw [slice, List.append_assoc, List.drop_left, Nat.add_sub_cancel_left, List.take_left]

theorem slice_end (A B : List Byte) {a b : Nat} (ha : A.length = a) (hb : a + B.length = b) :
    slice (A ++ B) a b = B := by
  have h := slice_mid A B [] ha hb
  rwa [List.append_nil] at h

theorem slice_rho (b : Byte) : slice (List.replicate 1152 b ++ rhoV) 1152 1184 = rhoV :=
  slice_end _ _ List.length_replicate rfl

/-- KeyGen has a result where its matrix has. -/
theorem keyGen_of_matrix {w : Nat} {d : List Byte} {A : List (List (List Nat))}
    (h : genMatrix w (slice (hashG (d ++ [0x03])) 0 32) = some A) (z : List Byte) :
    ∃ t : List (List Nat), t.length = 3 ∧ ∃ sk,
      keyGen w d z = some (t.flatMap enc12 ++ slice (hashG (d ++ [0x03])) 0 32, sk) := by
  unfold keyGen
  dsimp only
  rw [h]
  exact ⟨_, by rw [List.length_map, List.length_range], _, rfl⟩

/-- Encrypt has a result where its matrix has. -/
theorem encrypt_of_matrix {w : Nat} {pk : List Byte} {A : List (List (List Nat))}
    (h : genMatrix w (slice pk 1152 1184) = some A) (m r : List Byte) : ∃ ct, encrypt w pk m r = some ct := by
  unfold encrypt
  dsimp only
  rw [h]
  exact ⟨_, rfl⟩

/-- Encaps has a result where Encrypt has. -/
theorem encapsulate_of_matrix {w : Nat} {pk : List Byte} {A : List (List (List Nat))}
    (h : genMatrix w (slice pk 1152 1184) = some A) (m : List Byte) : ∃ CT KK, encapsulate w pk m = some (CT, KK) := by
  unfold encapsulate
  dsimp only
  obtain ⟨ct, hct⟩ := encrypt_of_matrix h m (slice (hashG (m ++ hashH pk)) 32 64)
  rw [hct]
  exact ⟨_, _, rfl⟩

/-- Decaps has a result where the matrix of its public key has. -/
theorem decapsulate_of_matrix {w : Nat} {sk : List Byte} {A : List (List (List Nat))}
    (h : genMatrix w (slice (slice sk 1152 2336) 1152 1184) = some A) (rh : RejectHash) (ct : List Byte) :
    ∃ KK, decapsulate rh w sk ct = some KK := by
  unfold decapsulate
  dsimp only
  obtain ⟨ct', hct⟩ := encrypt_of_matrix h (decrypt sk ct)
    (slice (hashG (decrypt sk ct ++ slice sk 2336 2368)) 32 64)
  rw [hct]
  exact ⟨_, rfl⟩

theorem keyGen_stops (z : List Byte) : ∃ r, keyGen 8 seedD z = some r := by
  obtain ⟨A, hA⟩ := matrix_stops
  rw [← test_keygen_seed] at hA
  obtain ⟨t, _, sk, h⟩ := keyGen_of_matrix hA z
  exact ⟨_, h⟩

/-- MEM that holds a byte string from address 0. -/
def loaded (B : List Byte) : State := State.reset.writeBytes 0 B

theorem written_readBytes (s : State) (B : List Byte) (a n : Nat) (h : a + n ≤ B.length) :
    (s.writeBytes 0 B).readBytes a n = (B.drop a).take n := by
  refine List.ext_getElem (by simp; omega) fun k hk _ => ?_
  have hk' : k < n := by simpa using hk
  have hb : (s.writeBytes 0 B).readByte (a + k) = B.getD (a + k) 0 := by
    rw [State.readByte_writeBytes]
    simp [show a + k < B.length by omega]
  simp [State.readBytes, hb, List.getD_eq_getElem?_getD, show a + k < B.length by omega]

theorem loaded_readBytes (B : List Byte) (a n : Nat) (h : a + n ≤ B.length) :
    (loaded B).readBytes a n = (B.drop a).take n := written_readBytes _ _ _ _ h

theorem loaded_windows (B : List Byte) : (loaded B).windows = 8 := by
  simp [State.windows, loaded, State.reset]

theorem loaded_races (B : List Byte) : (loaded B).races = [] := by simp [State.races, loaded, State.reset]

theorem loaded_params (B : List Byte) : (loaded B).params = Params.default := by simp [loaded, State.reset]

/-- O35: SAMPLENTT on ρ of V23 in MEM. -/
theorem witness_SamplenttCompletes :
    (Instr.samplentt 0 0 0).wellFormed (loaded rhoV).params ∧ (loaded rhoV).races = [] ∧
    ∃ f, parse (xofBytes ((loaded rhoV).readBytes (0 : Word).toNat 32) (BitVec.ofNat 8 ((0 : Word).toNat % 256))
      (BitVec.ofNat 8 ((0 : Word).toNat / 256)) (168 * (loaded rhoV).windows)) = some f := by
  refine ⟨by rw [loaded_params]; decide, loaded_races _, ?_⟩
  rw [loaded_windows, loaded_readBytes _ _ _ (by decide)]
  exact sample_stops (by decide) stops_00

/-- O39, O42 to O44, O59: KEYGEN on d of V23 in MEM. -/
theorem witness_KeygenCompletes :
    (Instr.keygen 0 0 32 4096).wellFormed (loaded seedD).params ∧ (loaded seedD).races = [] ∧
    ∃ PK SK, keyGen (loaded seedD).windows ((loaded seedD).readBytes (0 : Word).toNat 32)
      ((loaded seedD).readBytes (0 : Word).toNat 32) = some (PK, SK) := by
  refine ⟨by rw [loaded_params]; decide, loaded_races _, ?_⟩
  rw [loaded_windows, loaded_readBytes _ _ _ (by decide)]
  obtain ⟨⟨PK, SK⟩, h⟩ := keyGen_stops ((seedD.drop (0 : Word).toNat).take 32)
  exact ⟨PK, SK, h⟩

/-- A public key with all t̂ coefficients from one byte, ρ of V23, and the message 0. -/
def encapsInput (b : Byte) : List Byte := List.replicate 1152 b ++ rhoV ++ List.replicate 32 0

theorem encapsInput_length (b : Byte) : (encapsInput b).length = 1216 := by
  rw [encapsInput, List.length_append, List.length_append, List.length_replicate, List.length_replicate]; rfl

theorem encapsInput_key (b : Byte) :
    (loaded (encapsInput b)).readBytes (0 : Word).toNat 1184 = List.replicate 1152 b ++ rhoV := by
  rw [loaded_readBytes _ _ _ (by rw [encapsInput_length]; decide)]
  exact List.take_left' (by rw [List.length_append, List.length_replicate]; rfl)

theorem encaps_stops (b : Byte) : ∃ CT KK,
    encapsulate (loaded (encapsInput b)).windows ((loaded (encapsInput b)).readBytes (0 : Word).toNat 1184)
      ((loaded (encapsInput b)).readBytes (1184 : Word).toNat 32) = some (CT, KK) := by
  obtain ⟨A, hA⟩ := matrix_stops
  rw [loaded_windows, encapsInput_key]
  refine encapsulate_of_matrix (A := A) ?_ _
  rw [slice_rho, hA]

/-- The first three polynomials of a string of equal bytes. -/
theorem polyVec_replicate (b : Byte) (n : Nat) (C : List Byte) (h : 1152 ≤ n) :
    polyVec dec12 384 (List.replicate n b ++ C) = List.replicate 3 (dec12 (List.replicate 384 b)) := by
  have hs : ∀ i, i < 3 → slice (List.replicate n b ++ C) (384 * i) (384 * i + 384) = List.replicate 384 b := by
    intro i hi
    rw [slice, List.drop_append_of_le_length (by rw [List.length_replicate]; omega), List.drop_replicate,
      List.take_append_of_le_length (by rw [List.length_replicate]; omega), List.take_replicate]
    congr 1
    omega
  show [dec12 (slice _ (384 * 0) (384 * 0 + 384)), dec12 (slice _ (384 * 1) (384 * 1 + 384)),
    dec12 (slice _ (384 * 2) (384 * 2 + 384))] = _
  rw [hs 0 (by decide), hs 1 (by decide), hs 2 (by decide)]
  rfl

theorem dec12_zero_canonical : canonical (dec12 (List.replicate 384 0)) = true := by decide +kernel

theorem dec12_ones_not_canonical : canonical (dec12 (List.replicate 384 0xFF)) = false := by decide +kernel

/-- O40: ENCAPS with a pk in contract, and with one outside. -/
theorem witness_EncapsCompletes :
    (∀ b : Byte, (Instr.encaps 0 1184 1216 8160).wellFormed (loaded (encapsInput b)).params ∧
      (loaded (encapsInput b)).races = [] ∧ ∃ CT KK,
      encapsulate (loaded (encapsInput b)).windows ((loaded (encapsInput b)).readBytes (0 : Word).toNat 1184)
        ((loaded (encapsInput b)).readBytes (1184 : Word).toNat 32) = some (CT, KK)) ∧
    pkCanonical ((loaded (encapsInput 0x00)).readBytes (0 : Word).toNat 1184) = true ∧
    pkCanonical ((loaded (encapsInput 0xFF)).readBytes (0 : Word).toNat 1184) = false := by
  refine ⟨fun b => ⟨by rw [loaded_params]; decide, loaded_races _, encaps_stops b⟩, ?_, ?_⟩
  · rw [encapsInput_key, pkCanonical, polyVec_replicate _ _ _ (Nat.le_refl _)]
    rw [List.all_replicate, dec12_zero_canonical]; rfl
  · rw [encapsInput_key, pkCanonical, polyVec_replicate _ _ _ (Nat.le_refl _)]
    rw [List.all_replicate, dec12_ones_not_canonical]; rfl

/-- A secret key with all ŝ and t̂ coefficients from one byte, ρ of V23, H(pk) and z zero, and a zero ciphertext. -/
def decapsInput (b : Byte) : List Byte := List.replicate 2304 b ++ rhoV ++ List.replicate 1152 0

theorem decapsInput_length (b : Byte) : (decapsInput b).length = 3488 := by
  rw [decapsInput, List.length_append, List.length_append, List.length_replicate, List.length_replicate]; rfl

/-- The secret key of `decapsInput`. -/
def decapsKey (b : Byte) : List Byte := List.replicate 2304 b ++ rhoV ++ List.replicate 64 0

theorem decapsInput_key (b : Byte) : ((decapsInput b).drop (0 : Word).toNat).take 2400 = decapsKey b := by
  have h : decapsInput b = decapsKey b ++ List.replicate 1088 0 := by
    rw [decapsInput, decapsKey, List.append_assoc _ (List.replicate 64 0), List.replicate_append_replicate]
  rw [h]
  refine List.take_left' ?_
  rw [decapsKey, List.length_append, List.length_append, List.length_replicate, List.length_replicate]; rfl

theorem decapsKey_pk (b : Byte) : slice (decapsKey b) 1152 2336 = List.replicate 1152 b ++ rhoV := by
  have h2 : decapsKey b = List.replicate 1152 b ++ (List.replicate 1152 b ++ rhoV) ++ List.replicate 64 0 := by
    rw [decapsKey, ← List.append_assoc (List.replicate 1152 b), List.replicate_append_replicate]
  rw [h2]
  exact slice_mid _ _ _ List.length_replicate (by rw [List.length_append, List.length_replicate]; rfl)

theorem decapsKey_rho (b : Byte) : slice (slice (decapsKey b) 1152 2336) 1152 1184 = rhoV := by
  rw [decapsKey_pk]
  exact slice_end _ _ List.length_replicate rfl

theorem decaps_stops (b : Byte) : ∃ KK,
    decapsulate (loaded (decapsInput b)).params.rejectHash (loaded (decapsInput b)).windows
      ((loaded (decapsInput b)).readBytes (0 : Word).toNat 2400)
      ((loaded (decapsInput b)).readBytes (2400 : Word).toNat 1088) = some KK := by
  obtain ⟨A, hA⟩ := matrix_stops
  rw [loaded_windows, loaded_readBytes _ _ _ (by rw [decapsInput_length]; decide), decapsInput_key]
  refine decapsulate_of_matrix (A := A) ?_ _ _
  rw [decapsKey_rho, hA]

theorem decapsKey_canonical : skCanonical (decapsKey 0x00) = true := by
  have h2 : slice (decapsKey 0x00) 1152 2336 = List.replicate 1152 0x00 ++ rhoV := decapsKey_pk 0x00
  rw [skCanonical, h2, pkCanonical, decapsKey, List.append_assoc, polyVec_replicate _ _ _ (by decide),
    polyVec_replicate _ _ _ (Nat.le_refl _)]
  have h : ((List.replicate 3 (dec12 (List.replicate 384 0))).all canonical) = true := by
    rw [List.all_replicate, dec12_zero_canonical]; rfl
  rw [h]
  rfl

theorem decapsKey_not_canonical : skCanonical (decapsKey 0xFF) = false := by
  rw [skCanonical, decapsKey, List.append_assoc, polyVec_replicate _ _ _ (by decide), List.all_replicate,
    dec12_ones_not_canonical]
  rfl

/-- O41, O45, O60: DECAPS with an sk in contract, and with one outside. -/
theorem witness_DecapsCompletes :
    (∀ b : Byte, (Instr.decaps 0 2400 8160).wellFormed (loaded (decapsInput b)).params ∧
      (loaded (decapsInput b)).races = [] ∧ ∃ KK,
      decapsulate (loaded (decapsInput b)).params.rejectHash (loaded (decapsInput b)).windows
        ((loaded (decapsInput b)).readBytes (0 : Word).toNat 2400)
        ((loaded (decapsInput b)).readBytes (2400 : Word).toNat 1088) = some KK) ∧
    skCanonical ((loaded (decapsInput 0x00)).readBytes (0 : Word).toNat 2400) = true ∧
    skCanonical ((loaded (decapsInput 0xFF)).readBytes (0 : Word).toNat 2400) = false := by
  refine ⟨fun b => ⟨by rw [loaded_params]; decide, loaded_races _, decaps_stops b⟩, ?_, ?_⟩
  · rw [loaded_readBytes _ _ _ (by rw [decapsInput_length]; decide), decapsInput_key]
    exact decapsKey_canonical
  · rw [loaded_readBytes _ _ _ (by rw [decapsInput_length]; decide), decapsInput_key]
    exact decapsKey_not_canonical

theorem decapsInput_tail (b : Byte) : ((decapsInput b).drop ((0 : Word).toNat + 2304)).take 32 = rhoV := by
  have h := slice_mid (List.replicate 2304 b) rhoV (List.replicate 1152 0) (a := 2304) (b := 2336) List.length_replicate rfl
  rw [slice] at h
  exact h

theorem readBytes_swap (s u : State) (h : u.memDraw = s.memDraw) (a n : Nat) :
    { s with mem := u.mem }.readBytes a n = u.readBytes a n :=
  by simp only [State.readBytes, State.readByte, h]

/-- O45: two MEM contents that agree on ρ inside the secret key. -/
theorem witness_DecapsBranchIsInvisible :
    { loaded (decapsInput 0x00) with mem := (loaded (decapsInput 0xFF)).mem }.readBytes ((0 : Word).toNat + 2304) 32 =
      (loaded (decapsInput 0x00)).readBytes ((0 : Word).toNat + 2304) 32 := by
  rw [readBytes_swap _ _ (by simp [loaded, State.reset]), loaded_readBytes _ _ _ (by rw [decapsInput_length]; decide),
    loaded_readBytes _ _ _ (by rw [decapsInput_length]; decide)]
  rw [decapsInput_tail, decapsInput_tail]

/-- A pending KEYGEN with d = z = d of V23 in MEM. -/
def keygenState : State := (pendingState 0x50 ⟨0, 0, 32, 4096⟩).writeBytes 0 seedD

/-- O43: a pending KEYGEN whose loops stop within eight windows. -/
theorem witness_StoppedLoopsComplete :
    keygenState.agenda = [] ∧ keygenState.fetch = some ⟨0x50, ⟨0, 0, 32, 4096⟩⟩ ∧
    decodeCommand ⟨0x50, ⟨0, 0, 32, 4096⟩⟩ = .ok (.keygen 0 0 32 4096) ∧
    (Instr.keygen 0 0 32 4096).wellFormed keygenState.params ∧ keygenState.races = [] ∧
    loopsStopped 8 (.keygen 0 0 32 4096) keygenState = true := by
  have hp : keygenState.params = Params.default := State.writeBytes_params _ _ _
  refine ⟨State.writeBytes_agenda _ _ _, ?_, rfl, by rw [hp]; decide, ?_, ?_⟩
  · rw [State.fetch, keygenState, State.writeBytes_pending]; rfl
  · rw [State.races, keygenState, State.writeBytes_pending]; rfl
  · rw [loopsStopped, keygenState, written_readBytes _ _ _ _ (by decide)]
    obtain ⟨r, hr⟩ := keyGen_stops ((seedD.drop (0 : Word).toNat).take 32)
    exact Option.isSome_iff_exists.mpr ⟨r, hr⟩

/-- O44: results on eight windows, of each of the four functions. -/
theorem witness_ResultsDoNotDependOnTheWindow :
    8 ≤ 9 ∧ (∃ f, sampleNtt 8 rhoV 0#8 0#8 = some f) ∧ (∃ r, keyGen 8 seedD seedD = some r) ∧
    (∃ r, encapsulate 8 (List.replicate 1152 0 ++ rhoV) [] = some r) ∧
    (∃ r, decapsulate .sha3_256 8 (decapsKey 0) [] = some r) := by
  obtain ⟨A, hA⟩ := matrix_stops
  refine ⟨by decide, sample_stops (by decide) stops_00, keyGen_stops _, ?_, ?_⟩
  · obtain ⟨CT, KK, h⟩ := encapsulate_of_matrix (w := 8) (pk := List.replicate 1152 0 ++ rhoV) (A := A)
      (by rw [slice_rho, hA]) []
    exact ⟨_, h⟩
  · exact decapsulate_of_matrix (A := A) (by rw [decapsKey_rho, hA]) _ _

/-- O59, O60: a key pair of KeyGen on d of V23, and a ciphertext and secret of Encaps under its public key. -/
theorem witness_DecapsOfEncaps (m z : List Byte) : ∃ pk sk ct K,
    keyGen 8 seedD z = some (pk, sk) ∧ encapsulate 8 pk m = some (ct, K) := by
  obtain ⟨A, hA⟩ := matrix_stops
  have hA' := hA
  rw [← test_keygen_seed] at hA'
  obtain ⟨t, ht, sk, hk⟩ := keyGen_of_matrix hA' z
  rw [test_keygen_seed] at hk
  have hl : (t.flatMap enc12).length = 1152 := by
    match t, ht with
    | [a, b, c], _ =>
      show (enc12 a ++ (enc12 b ++ (enc12 c ++ []))).length = 1152
      rw [List.length_append, List.length_append, List.length_append, enc12, enc12, enc12, byteEncode_length,
        byteEncode_length, byteEncode_length]
      rfl
  obtain ⟨ct, K, h⟩ := encapsulate_of_matrix (w := 8) (pk := t.flatMap enc12 ++ rhoV) (A := A)
    (by rw [slice_end (b := 1184) _ _ hl rfl, hA]) m
  exact ⟨_, sk, ct, K, hk, h⟩

/-- O60: a result of Encrypt, and a re-encryption that the last clause speaks of. -/
theorem witness_DecapsOfEncaps_any (ct : List Byte) : ∃ ct',
    encrypt 8 (slice (decapsKey 0) 1152 2336) (decrypt (decapsKey 0) ct)
      (slice (hashG (decrypt (decapsKey 0) ct ++ slice (decapsKey 0) 2336 2368)) 32 64) = some ct' := by
  obtain ⟨A, hA⟩ := matrix_stops
  exact encrypt_of_matrix (A := A) (by rw [decapsKey_rho, hA]) _ _

end Sys2Proof.Tests
end

section
/-! PROOFS. How many bytes KeyGen, Encaps and Decaps give (46_kem.md R294 to R298). -/

namespace Sys2Proof.Machine

theorem flatMap_length_of_const {α β : Type} {f : α → List β} {n : Nat} (hf : ∀ x, (f x).length = n) (l : List α) :
    (l.flatMap f).length = l.length * n := by
  simp [List.length_flatMap, hf]

@[simp] theorem slice_length (B : List Byte) (a b : Nat) : (slice B a b).length = min (b - a) (B.length - a) := by
  simp [slice]

@[simp] theorem rejectHash_length (rh : RejectHash) (X : List Byte) : (rejectHash rh X).length = 32 := by
  cases rh
  case sha3_256 => exact hashH_length X
  case shake256_32 => exact sponge_length _ _ _ _ (by decide) (by decide)

/-- A public key has 1184 bytes, and a secret key has 2368 and those of `z`. -/
theorem keyGen_lengths {w : Nat} {d z PK SK : List Byte} (h : keyGen w d z = some (PK, SK)) :
    PK.length = 1184 ∧ SK.length = 2368 + z.length := by
  have henc : ∀ F, (enc12 F).length = 384 := byteEncode_length 12
  simp only [keyGen] at h
  split at h
  · cases h
  · cases h
    simp [flatMap_length_of_const henc]
    omega

theorem encrypt_length {w : Nat} {pk m r ct : List Byte} (h : encrypt w pk m r = some ct) : ct.length = 1088 := by
  have hcomp : ∀ F, (comp10 F).length = 320 := fun F => byteEncode_length 10 _
  simp only [encrypt] at h
  split at h
  · cases h
  · cases h
    simp [flatMap_length_of_const hcomp, comp4]

theorem encapsulate_lengths {w : Nat} {pk m CT KK : List Byte} (h : encapsulate w pk m = some (CT, KK)) :
    CT.length = 1088 ∧ KK.length = 32 := by
  simp only [encapsulate] at h
  split at h
  · cases h
  · next ct hct =>
    cases h
    exact ⟨encrypt_length hct, by simp⟩

theorem decapsulate_length {rh : RejectHash} {w : Nat} {sk ct KK : List Byte}
    (h : decapsulate rh w sk ct = some KK) : KK.length = 32 := by
  simp only [decapsulate] at h
  split at h
  · cases h
  · cases h
    split <;> simp

end Sys2Proof.Machine
end

section
/-! PROOFS. What a passed argument check (60_exceptions.md R343) says of the registers and regions a command writes. -/

namespace Sys2Proof.Machine

variable {p : Params} {i : Instr}

theorem isPreg_of_check (hc : check p i = none) {d : Word} (hd : .preg d ∈ operands i) : isPreg p d := by
  obtain ⟨-, hpreg, -⟩ := (Laws.check_eq_none_iff p i).mp hc
  have := List.any_eq_false.mp hpreg _ hd
  simpa using this

theorem inRange_of_check (hc : check p i = none) {a : Word} {n : Nat} (ho : .outAt a n ∈ operands i) :
    inRange p a.toNat n := by
  obtain ⟨-, -, -, haddr, -⟩ := (Laws.check_eq_none_iff p i).mp hc
  have hmem : (⟨a.toNat, n⟩ : Region) ∈ inputs i ++ outputs i :=
    List.mem_append_right _ (List.mem_filterMap.mpr ⟨_, ho, rfl⟩)
  have := List.any_eq_false.mp haddr _ hmem
  simpa using this

/-- The register a command writes is one of its operands. -/
theorem preg_mem_operands_of_dest {d : Word} (h : dest i = .preg d) : .preg d ∈ operands i := by
  cases i <;> simp_all [dest, operands]

/-- A cut region lies inside MEM. -/
theorem inRange_clip (p : Params) (r : Region) : inRange p (r.clip p).addr (r.clip p).len := by
  simp only [Region.clip, inRange]
  omega

end Sys2Proof.Machine
end

section
/-! PROOFS. Every update of the state keeps the invariant `State.Inv`; one rule per operation. -/

namespace Sys2Proof.Machine

variable {s t : State}

/-! ### The pending command under a change of its bookkeeping -/

/-- The regions of the pending command depend on its snapshot only. -/
theorem State.inRegions_congr (h : t.fetch = s.fetch) (a : Nat) : t.inRegions a = s.inRegions a := by
  simp only [State.inRegions, State.inOutputs, State.pendingRegions, h]

@[simp] theorem State.fetch_notYet (s : State) : s.notYet.fetch = s.fetch := by
  simp only [State.fetch, State.notYet_pending]
  cases s.pending <;> rfl

@[simp] theorem State.fetch_noteRace (s : State) (a : Nat) : (s.noteRace a).fetch = s.fetch := by
  simp only [State.fetch, State.noteRace_pending]
  cases s.pending <;> rfl

@[simp] theorem State.races_notYet (s : State) : s.notYet.races = s.races := by
  simp only [State.races, State.notYet_pending]
  cases s.pending <;> rfl

theorem State.mem_races_noteRace {a x : Nat} (h : x ∈ (s.noteRace a).races) : x = a ∨ x ∈ s.races := by
  simp only [State.races, State.noteRace_pending] at h ⊢
  cases hp : s.pending <;> simp_all

/-! ### MEM, the polynomial registers and the draws -/

/-- A write to a sparse file keeps its keys below a bound that the new key meets. -/
theorem store_keys_lt {β : Type} {a n : Nat} {v : β} {m : List (Nat × β)} (hm : ∀ c ∈ m, c.1 < n) (ha : a < n) :
    ∀ c ∈ store a v m, c.1 < n := by
  intro c hc
  obtain heq | hkey := mem_keys_store (List.mem_map_of_mem hc)
  · exact heq ▸ ha
  · obtain ⟨e, he, heq⟩ := List.mem_map.mp hkey
    exact heq ▸ hm e he

theorem State.Inv.writeByte (h : s.Inv) {a : Nat} (ha : a < s.params.memSize) (v : Byte) : (s.writeByte a v).Inv :=
  { h with
    memWf := State.writeByte_wf h.memWf a v
    memInside := store_keys_lt h.memInside ha }

theorem State.Inv.writeBytes (h : s.Inv) {a : Nat} {B : List Byte} (hin : inRange s.params a B.length) :
    (s.writeBytes a B).Inv := by
  induction B generalizing a s with
  | nil => exact h
  | cons b B ih =>
    simp only [inRange, List.length_cons] at hin
    refine ih (h.writeByte (by omega) b) ?_
    simp only [inRange, State.writeByte_params]
    omega

theorem State.Inv.setPreg (h : s.Inv) {r : Nat} (hr : r < s.params.npoly) (f : Poly) : (s.setPreg r f).Inv :=
  { h with
    pregsWf := State.setPreg_wf h.pregsWf r f
    pregsInside := store_keys_lt h.pregsInside hr }

theorem State.Inv.setResult (h : s.Inv) (v : BitVec 12) : { s with result := v }.Inv := { h with }

theorem State.Inv.spend (h : s.Inv) : s.spend.Inv :=
  { h with drawsOld := ⟨Nat.lt_succ_of_lt h.drawsOld.1, Nat.lt_succ_of_lt h.drawsOld.2⟩ }

/-- `State.forgetPregs` alone leaves P on the next unused draw; with the draw spent the invariant holds again. -/
theorem State.Inv.afterKem (h : s.Inv) : s.afterKem.Inv :=
  { h with
    pregsWf := List.Pairwise.nil
    pregsInside := fun _ hc => absurd hc List.not_mem_nil
    drawsOld := ⟨Nat.lt_succ_of_lt h.drawsOld.1, Nat.lt_succ_self _⟩ }

theorem State.Inv.freePreg (h : s.Inv) {r : Nat} (hr : r < s.params.npoly) : (s.freePreg r).Inv :=
  (h.setPreg hr _).spend

theorem State.Inv.freeMem (h : s.Inv) {a n : Nat} (hin : inRange s.params a n) : (s.freeMem a n).Inv :=
  (h.writeBytes (by rwa [freeBytes_length])).spend

/-! ### Completion, races and resets -/

theorem State.Inv.completeOk (h : s.Inv) : s.completeOk.Inv :=
  { h with
    busyQuiet := fun hb => absurd hb Bool.false_ne_true
    racesInside := fun _ ha => absurd ha List.not_mem_nil }

theorem ErrCode.code_ne_zero (e : ErrCode) : e.code ≠ 0 := by cases e <;> decide

theorem ErrCode.code_le_six (e : ErrCode) : e.code.toNat ≤ 6 := by cases e <;> decide

theorem State.Inv.completeErr (h : s.Inv) (e : ErrCode) : (s.completeErr e).Inv :=
  { h with
    errcodeIffErr := iff_of_false e.code_ne_zero nofun
    errcodeKnown := e.code_le_six
    busyQuiet := fun hb => absurd hb Bool.false_ne_true
    racesInside := fun _ ha => absurd ha List.not_mem_nil }

theorem State.Inv.notYet (h : s.Inv) : s.notYet.Inv :=
  { h with
    busyQuiet := fun hb => h.busyQuiet (by simpa [State.busy] using hb)
    racesInside := fun a ha => by
      rw [State.inRegions_congr s.fetch_notYet]
      exact h.racesInside a (by rwa [State.races_notYet] at ha) }

theorem State.Inv.noteRace (h : s.Inv) {a : Nat} (hreg : s.inRegions a = true) (ha : a < s.params.memSize) :
    (s.noteRace a).Inv :=
  { h with
    busyQuiet := fun hb => h.busyQuiet (by simpa [State.busy] using hb)
    racesInside := fun x hx => by
      rw [State.inRegions_congr (s.fetch_noteRace a)]
      obtain rfl | hx := State.mem_races_noteRace hx
      · exact ⟨hreg, ha⟩
      · exact h.racesInside x hx }

theorem State.Inv.scramble (h : s.Inv) (rs : List Region) : (s.scramble rs).Inv := by
  induction rs generalizing s with
  | nil => exact h
  | cons r rs ih =>
    refine ih (h.writeBytes ?_)
    rw [freeBytes_length]
    exact inRange_clip s.params r

theorem State.Inv.scrambleBytes (h : s.Inv) {as : List Nat} (hin : ∀ a ∈ as, a < s.params.memSize) :
    (s.scrambleBytes as).Inv := by
  induction as generalizing s with
  | nil => exact h
  | cons a as ih =>
    obtain ⟨ha, has⟩ := List.forall_mem_cons.mp hin
    exact ih (h.writeByte ha _) has

theorem State.Inv.scrambleDest_spend (h : s.Inv) {d : Dest} (hd : ∀ r, d = .preg r → isPreg s.params r) :
    (s.scrambleDest d).spend.Inv := by
  cases d with
  | nothing => exact h.spend
  | preg r => exact (h.setPreg (hd r rfl) _).spend
  | allPregs => exact h.afterKem
  | result => exact (h.setResult _).spend

/-- Scrambling the outputs and the raced bytes, which both of the outcomes of a raced command begin with. -/
theorem State.Inv.scrambleRaced (h : s.Inv) (outs : List Region) : ((s.scramble outs).scrambleBytes s.races).Inv :=
  (h.scramble outs).scrambleBytes fun a ha => by
    rw [State.scramble_params]
    exact (h.racesInside a ha).2

theorem State.Inv.raceOutcome (h : s.Inv) {i : Instr} (hc : check s.params i = none) : (s.raceOutcome i).Inv := by
  refine ((h.scrambleRaced (outputs i)).scrambleDest_spend fun d hd => ?_).completeOk
  rw [State.scrambleBytes_params, State.scramble_params]
  exact isPreg_of_check hc (preg_mem_operands_of_dest hd)

theorem State.Inv.failCommand (h : s.Inv) (e : ErrCode) (outs : List Region) : (s.failCommand e outs).Inv := by
  unfold State.failCommand
  split
  · exact h.completeErr e
  · exact (h.scrambleRaced outs).spend.completeErr e

theorem State.Inv.softReset (h : s.Inv) : s.softReset.Inv :=
  { (h.scramble s.pendingRegions.2).afterKem with
    errcodeIffErr := iff_of_true rfl rfl
    errcodeKnown := Nat.zero_le 6
    busyQuiet := fun _ => ⟨rfl, rfl⟩
    racesInside := fun _ ha => absurd ha List.not_mem_nil }

theorem State.Inv.powerOn (h : s.Inv) : s.powerOn.Inv where
  legal := h.legal
  memWf := State.reset_mem_wf
  memInside _ hc := absurd hc List.not_mem_nil
  pregsWf := List.Pairwise.nil
  pregsInside _ hc := absurd hc List.not_mem_nil
  errcodeIffErr := iff_of_true rfl rfl
  errcodeKnown := Nat.zero_le 6
  busyQuiet _ := ⟨rfl, rfl⟩
  racesInside _ ha := absurd ha List.not_mem_nil
  drawsOld := ⟨Nat.lt_succ_self _, Nat.lt_succ_self _⟩

/-! ### Host accesses -/

theorem State.Inv.setReadData (h : s.Inv) (v : Option Word) : { s with readData := v }.Inv := { h with }

theorem State.Inv.setAgenda (h : s.Inv) (es : List Event) : { s with agenda := es }.Inv := { h with }

theorem State.Inv.setArgs (h : s.Inv) (a : Args) : { s with args := a }.Inv := { h with }

theorem State.Inv.writeIe (h : s.Inv) (v : Word) : (s.writeIe v).Inv := { h with }

theorem State.Inv.pollDone (h : s.Inv) : s.pollDone.Inv := { h with }

theorem State.Inv.writeStatus (h : s.Inv) (v : Word) : (s.writeStatus v).Inv :=
  { h with
    errcodeIffErr := by
      rw [State.writeStatus_errcode, State.writeStatus_err]
      cases v.getLsbD 2 with
      | true => simp
      | false => simpa using h.errcodeIffErr
    errcodeKnown := by
      rw [State.writeStatus_errcode]
      split
      · exact Nat.zero_le 6
      · exact h.errcodeKnown
    busyQuiet := fun hb => by
      obtain ⟨hdone, herr⟩ := h.busyQuiet hb
      rw [State.writeStatus_done, State.writeStatus_err, hdone, herr]
      exact ⟨rfl, rfl⟩ }

theorem State.Inv.writeCmd (h : s.Inv) (v : Word) : (s.writeCmd v).Inv := by
  unfold State.writeCmd
  split
  · exact { h with }
  · exact { h with
      errcodeIffErr := iff_of_true rfl rfl
      errcodeKnown := Nat.zero_le 6
      busyQuiet := fun _ => ⟨rfl, rfl⟩
      racesInside := fun _ ha => absurd ha List.not_mem_nil }

theorem State.Inv.writeCtrl (h : s.Inv) (v : Word) : (s.writeCtrl v).Inv := by
  unfold State.writeCtrl
  split
  · exact h.softReset
  · exact h.writeIe v

theorem State.Inv.writeReg (h : s.Inv) (offset : Nat) (v : Word) : (s.writeReg offset v).Inv := by
  unfold State.writeReg
  split_ifs
  · exact h.writeCtrl v
  · exact h.writeStatus v
  · exact h.writeCmd v
  iterate 4 exact h.setArgs _
  · exact h

theorem State.Inv.hostReadMem (h : s.Inv) (a width : Nat) : (s.hostReadMem a width).Inv :=
  { h with
    drawsOld := by
      obtain ⟨hmem, hpreg⟩ := h.drawsOld
      simp only [State.hostReadMem]
      split <;> omega }

@[simp] theorem State.hostWriteByte_params (s : State) (a : Nat) (v : Byte) :
    (s.hostWriteByte a v).params = s.params := by
  unfold State.hostWriteByte
  split <;> rfl

theorem State.Inv.hostWriteByte (h : s.Inv) {a : Nat} (ha : a < s.params.memSize) (v : Byte) :
    (s.hostWriteByte a v).Inv := by
  unfold State.hostWriteByte
  split
  · next hreg => exact (h.writeByte ha _).spend.noteRace hreg ha
  · exact h.writeByte ha v

theorem State.Inv.hostWriteMem (h : s.Inv) {a : Nat} {B : List Byte} (hin : a + B.length ≤ s.params.memSize) :
    (s.hostWriteMem a B).Inv := by
  induction B generalizing a s with
  | nil => exact h
  | cons b B ih =>
    rw [List.length_cons] at hin
    refine ih (h.hostWriteByte (by omega) b) ?_
    rw [State.hostWriteByte_params]
    omega

/-- A MEM-window access that has a defined response ends inside MEM (20_memory.md R62). -/
theorem target_mem_inside {p : Params} {addr width a : Nat} (h : target p addr width = .ok (.mem a)) :
    a + width ≤ p.memSize := by
  unfold target at h
  split_ifs at h with _ _ _ _ hin
  · cases h
  · exact Target.mem.inj (Except.ok.inj h) ▸ hin

theorem hostStep_keepsInv {access : HostAccess} (hs : s.Inv) (h : hostStep access s = .next t) : t.Inv := by
  cases access with
  | read addr width =>
    simp only [hostStep] at h
    split at h
    · cases h
    · cases h
      exact hs.setReadData _
    · cases h
      exact hs.hostReadMem _ _
  | write addr width v =>
    simp only [hostStep] at h
    split at h
    · cases h
    · cases h
      exact hs.writeReg _ _
    · next a ha =>
      cases h
      exact hs.hostWriteMem (by rw [leBytes_length]; exact target_mem_inside ha)

end Sys2Proof.Machine
end

section
/-! PROOFS. Every command keeps the invariant (10_state.md R33): the frame `runCommand` once, then the effects. -/

namespace Sys2Proof.Machine

variable {s t : State} {i : Instr} {effect : State → Option State}

/-- A command's effect, run after a passed argument check, keeps the invariant. -/
def EffectKeepsInv (i : Instr) (effect : State → Option State) : Prop :=
  ∀ ⦃s u : State⦄, s.Inv → check s.params i = none → effect s = some u → u.Inv

/-- A command keeps the invariant: it is its effect run in the frame `runCommand`, and the effect keeps it. -/
def CommandKeepsInv (i : Instr) : Prop :=
  ∃ effect, (∀ s, exec i s = runCommand i effect s) ∧ EffectKeepsInv i effect

/-- The frame of a command keeps the invariant when its effect does. -/
theorem runCommand_keepsInv (he : EffectKeepsInv i effect) (hs : s.Inv) (h : runCommand i effect s = .next t) :
    t.Inv := by
  obtain ⟨e, -, rfl⟩ | ⟨-, -, rfl⟩ | ⟨hc, -, -, rfl⟩ | ⟨hc, -, u, hu, rfl⟩ := runCommand_cases h
  · exact hs.failCommand e _
  · exact hs.notYet
  · exact hs.raceOutcome hc
  · exact (he hs hc hu).completeOk

/-! ### The effects that several commands share -/

/-- A command that writes to an output region as many bytes as the region has. -/
theorem writeBytes_keepsInv {dst : Word} {n : Nat} {B : State → List Byte} (ho : .outAt dst n ∈ operands i)
    (hB : ∀ s, (B s).length = n) : EffectKeepsInv i fun s => some (s.writeBytes dst.toNat (B s)) := by
  rintro s _ hs hc ⟨⟩
  exact hs.writeBytes ((hB s).symm ▸ inRange_of_check hc ho)

/-- A command that writes one register. -/
theorem setPreg_keepsInv {dst : Word} {f : State → Poly} (ho : .preg dst ∈ operands i) :
    EffectKeepsInv i fun s => some (s.setPreg dst.toNat (f s)) := by
  rintro s _ hs hc ⟨⟩
  exact hs.setPreg (isPreg_of_check hc ho) _

theorem pregToMem_keepsInv {n : Nat} {f : List Nat → List Byte} {takesAll : Bool} {src dst : Word}
    (ho : .outAt dst n ∈ operands i) (hf : ∀ F, (f F).length = n) :
    EffectKeepsInv i (pregToMem n f takesAll src dst) := by
  intro s u hs hc hu
  have hin := inRange_of_check hc ho
  simp only [pregToMem] at hu
  split at hu <;> cases hu
  · exact hs.writeBytes ((hf _).symm ▸ hin)
  · exact hs.freeMem hin

theorem pregUnary_keepsInv {f : List Nat → List Nat} {d a : Word} (ho : .preg d ∈ operands i) :
    EffectKeepsInv i (pregUnary f d a) := by
  intro s u hs hc hu
  have hd := isPreg_of_check hc ho
  simp only [pregUnary] at hu
  split at hu <;> cases hu
  · exact hs.setPreg hd _
  · exact hs.freePreg hd

theorem pregBinary_keepsInv {f : List Nat → List Nat → List Nat} {d a b : Word} (ho : .preg d ∈ operands i) :
    EffectKeepsInv i (pregBinary f d a b) := by
  intro s u hs hc hu
  have hd := isPreg_of_check hc ho
  simp only [pregBinary] at hu
  split at hu <;> cases hu
  · exact hs.setPreg hd _
  · exact hs.freePreg hd

/-! ### The commands with an effect of their own -/

theorem mulmod_keepsInv (a b : Word) : CommandKeepsInv (.mulmod a b) := by
  refine ⟨_, fun _ => rfl, fun s u hs _ hu => ?_⟩
  split at hu <;> cases hu
  · exact hs.setResult _
  · exact (hs.setResult (Config.freeResult s.draws)).spend

theorem samplentt_keepsInv (dst rho idx : Word) : CommandKeepsInv (.samplentt dst rho idx) := by
  refine ⟨_, fun _ => rfl, fun s u hs hc hu => ?_⟩
  split at hu <;> cases hu
  exact hs.setPreg (isPreg_of_check hc (by simp [operands])) _

/-- Two outputs, as KEYGEN and ENCAPS write them. -/
theorem State.Inv.writeBytesTwice (h : s.Inv) {a b : Nat} {A B : List Byte} (ha : inRange s.params a A.length)
    (hb : inRange s.params b B.length) : ((s.writeBytes a A).writeBytes b B).Inv :=
  (h.writeBytes ha).writeBytes (by rwa [State.writeBytes_params])

theorem keygen_keepsInv (d z pk sk : Word) : CommandKeepsInv (.keygen d z pk sk) := by
  refine ⟨_, fun _ => rfl, fun s u hs hc hu => ?_⟩
  have hpk : inRange s.params pk.toNat 1184 := inRange_of_check hc (by simp [operands])
  have hsk : inRange s.params sk.toNat 2400 := inRange_of_check hc (by simp [operands])
  split at hu
  · cases hu
  · next PK SK hkeys =>
    obtain ⟨hPK, hSK⟩ := keyGen_lengths hkeys
    rw [State.readBytes_length] at hSK
    obtain rfl := Option.some.inj hu
    exact (hs.writeBytesTwice (by rwa [hPK]) (by rwa [hSK])).afterKem

theorem encaps_keepsInv (pk m ct key : Word) : CommandKeepsInv (.encaps pk m ct key) := by
  refine ⟨_, fun _ => rfl, fun s u hs hc hu => ?_⟩
  have hct : inRange s.params ct.toNat 1088 := inRange_of_check hc (by simp [operands])
  have hkey : inRange s.params key.toNat 32 := inRange_of_check hc (by simp [operands])
  split at hu
  · cases hu
  · next CT KK hres =>
    obtain ⟨hCT, hKK⟩ := encapsulate_lengths hres
    split at hu <;> obtain rfl := Option.some.inj hu
    · exact (hs.writeBytesTwice (by rwa [hCT]) (by rwa [hKK])).afterKem
    · exact (hs.writeBytesTwice (by rwa [freeBytes_length]) (by rwa [freeBytes_length])).afterKem

theorem decaps_keepsInv (sk ct key : Word) : CommandKeepsInv (.decaps sk ct key) := by
  refine ⟨_, fun _ => rfl, fun s u hs hc hu => ?_⟩
  have hkey : inRange s.params key.toNat 32 := inRange_of_check hc (by simp [operands])
  split at hu
  · cases hu
  · next KK hres =>
    split at hu <;> cases hu
    · exact (hs.writeBytes (by rwa [decapsulate_length hres])).afterKem
    · exact (hs.writeBytes (by rwa [freeBytes_length])).afterKem

/-! ### Every command, every event, every step -/

/-- Every command keeps the invariant. -/
theorem command_keepsInv (i : Instr) : CommandKeepsInv i := by
  cases i
  case nop => exact ⟨_, fun _ => rfl, fun _ _ hs _ hu => Option.some.inj hu ▸ hs⟩
  case keccakf => exact ⟨_, fun _ => rfl, writeBytes_keepsInv (n := 200) (by simp [operands]) (by simp)⟩
  case sha3_256 => exact ⟨_, fun _ => rfl, writeBytes_keepsInv (n := 32) (by simp [operands]) (by simp)⟩
  case sha3_512 => exact ⟨_, fun _ => rfl, writeBytes_keepsInv (n := 64) (by simp [operands]) (by simp)⟩
  case prf => exact ⟨_, fun _ => rfl, writeBytes_keepsInv (n := 128) (by simp [operands]) (by simp)⟩
  case xof _ _ _ len => exact ⟨_, fun _ => rfl, writeBytes_keepsInv (n := len.toNat) (by simp [operands]) (by simp)⟩
  case mulmod => exact mulmod_keepsInv _ _
  case padd => exact ⟨_, fun _ => rfl, pregBinary_keepsInv (by simp [operands])⟩
  case psub => exact ⟨_, fun _ => rfl, pregBinary_keepsInv (by simp [operands])⟩
  case ntt => exact ⟨_, fun _ => rfl, pregUnary_keepsInv (by simp [operands])⟩
  case intt => exact ⟨_, fun _ => rfl, pregUnary_keepsInv (by simp [operands])⟩
  case basemul => exact ⟨_, fun _ => rfl, pregBinary_keepsInv (by simp [operands])⟩
  case cbd2 => exact ⟨_, fun _ => rfl, setPreg_keepsInv (by simp [operands])⟩
  case samplentt => exact samplentt_keepsInv _ _ _
  case enc12 => exact ⟨_, fun _ => rfl, pregToMem_keepsInv (by simp [operands]) fun _ => byteEncode_length 12 _⟩
  case dec12 => exact ⟨_, fun _ => rfl, setPreg_keepsInv (by simp [operands])⟩
  case comp10 => exact ⟨_, fun _ => rfl, pregToMem_keepsInv (by simp [operands]) fun _ => byteEncode_length 10 _⟩
  case decomp10 => exact ⟨_, fun _ => rfl, setPreg_keepsInv (by simp [operands])⟩
  case comp4 => exact ⟨_, fun _ => rfl, pregToMem_keepsInv (by simp [operands]) fun _ => byteEncode_length 4 _⟩
  case decomp4 => exact ⟨_, fun _ => rfl, setPreg_keepsInv (by simp [operands])⟩
  case tomsg => exact ⟨_, fun _ => rfl, pregToMem_keepsInv (by simp [operands]) fun _ => byteEncode_length 1 _⟩
  case frommsg => exact ⟨_, fun _ => rfl, setPreg_keepsInv (by simp [operands])⟩
  case keygen => exact keygen_keepsInv _ _ _ _
  case encaps => exact encaps_keepsInv _ _ _ _
  case decaps => exact decaps_keepsInv _ _ _

theorem exec_keepsInv (hs : s.Inv) (h : exec i s = .next t) : t.Inv := by
  obtain ⟨effect, hexec, he⟩ := command_keepsInv i
  exact runCommand_keepsInv he hs (hexec s ▸ h)

theorem engineStep_keepsInv (hs : s.Inv) (h : engineStep s = .next t) : t.Inv := by
  unfold engineStep at h
  split at h
  · cases h
    exact hs
  · split at h
    · cases h
      exact hs.failCommand _ _
    · exact exec_keepsInv hs h

theorem runEvent_keepsInv {e : Event} (hs : s.Inv) (h : runEvent e s = .next t) : t.Inv := by
  cases e with
  | host access => exact hostStep_keepsInv hs h
  | engine => exact engineStep_keepsInv hs h
  | wait =>
    cases h
    exact hs.pollDone
  | powerOn =>
    cases h
    exact hs.powerOn

/-- Settles O7: the agenda's next event, or the engine's turn where none is left, keeps each clause of the invariant. -/
theorem stepKeepsTheInvariant : Obligations.StepKeepsTheInvariant := by
  intro s t hs h
  unfold step at h
  split at h
  · exact engineStep_keepsInv hs h
  · next e rest _ => exact runEvent_keepsInv (hs.setAgenda rest) h

end Sys2Proof.Machine
end

section
/-! PROOFS. The bits of the CTRL, STATUS and RESULT words (10_state.md R23, R25, R29), and which bits a write looks at. -/

namespace Sys2Proof.Machine

theorem bitAt_getLsbD {n : Nat} (hn : n < 32) (b : Bool) (k : Nat) :
    (bitAt n b).getLsbD k = (decide (k = n) && b) := by
  cases b with
  | false => simp [bitAt]
  | true =>
    simp only [bitAt, if_true, BitVec.getLsbD_ofNat, Nat.testBit_two_pow, Bool.and_true]
    by_cases hk : k = n
    · simp [hk, hn]
    · simp [hk, Ne.symm hk]

theorem State.ctrlWord_getLsbD (s : State) (n : Nat) : s.ctrlWord.getLsbD n = (decide (n = 1) && s.ie) :=
  bitAt_getLsbD (by decide) s.ie n

theorem State.statusWord_getLsbD (s : State) (n : Nat) :
    s.statusWord.getLsbD n =
      if n = 0 then s.busy else if n = 1 then s.done else if n = 2 then s.err else if n = 3 then s.overrun
      else if 8 ≤ n ∧ n < 12 then s.errcode.getLsbD (n - 8) else false := by
  have hcode : (s.errcode.setWidth 32 <<< 8).getLsbD n =
      if 8 ≤ n ∧ n < 12 then s.errcode.getLsbD (n - 8) else false := by
    rw [BitVec.getLsbD_shiftLeft, BitVec.getLsbD_setWidth]
    split
    · next h => simp [show n < 32 by omega, show ¬n < 8 by omega, show n - 8 < 32 by omega]
    · next h =>
      by_cases h8 : n < 8
      · simp [h8]
      · simp [BitVec.getLsbD_of_ge s.errcode (n - 8) (by omega)]
  simp only [State.statusWord, BitVec.getLsbD_or, hcode, bitAt_getLsbD, Nat.reduceLT]
  split_ifs <;> simp_all

/-- Words that agree on a stretch of bits agree on each bit of it. -/
theorem getLsbD_congr {v w : Word} {a n : Nat} (h : v.extractLsb' a n = w.extractLsb' a n) {k : Nat} (hk : k < n) :
    v.getLsbD (a + k) = w.getLsbD (a + k) := by
  have := congrArg (·.getLsbD k) h
  simpa [hk] using this

end Sys2Proof.Machine
end

section
/-! PROOFS. One host access to the register block (10_state.md R22, 20_memory.md R61), as a step. -/

namespace Sys2Proof.Machine

variable {s : State} {o : Nat} {v : Word} {rest : List Event}

theorem target_register (p : Params) (h4 : o % 4 = 0) (ho : o < 0x2000) : target p (p.base + o) 4 = .ok (.reg o) := by
  simp [target, h4, ho]

/-- Only an aligned 32-bit access inside the register block reaches a register. -/
theorem register_of_target {p : Params} {addr width : Nat} (h : target p addr width = .ok (.reg o)) :
    addr = p.base + o ∧ width = 4 := by
  unfold target at h
  split_ifs at h with hbase hblock hword
  · obtain rfl := Target.reg.inj (Except.ok.inj h)
    exact ⟨by omega, hword.1⟩
  · cases h

theorem step_of_nil (h : s.agenda = []) : step s = engineStep s := by
  simp only [step, h]

theorem step_of_cons {e : Event} (h : s.agenda = e :: rest) : step s = runEvent e { s with agenda := rest } := by
  simp only [step, h]

theorem step_register_read (hs : s.agenda = .host (.read (s.params.base + o) 4) :: rest) (h4 : o % 4 = 0)
    (ho : o < 0x2000) : step s = .next { s with agenda := rest, readData := some (s.readReg o) } := by
  simp only [step_of_cons hs, runEvent, hostStep, target_register s.params h4 ho]
  rfl

theorem step_register_write (hs : s.agenda = .host (.write (s.params.base + o) 4 v) :: rest) (h4 : o % 4 = 0)
    (ho : o < 0x2000) : step s = .next ({ s with agenda := rest }.writeReg o v) := by
  simp only [step_of_cons hs, runEvent, hostStep, target_register s.params h4 ho]

theorem State.readReg_reserved (s : State) (ho : o = 0x00C ∨ 0x024 ≤ o) : s.readReg o = 0 := by
  unfold State.readReg
  iterate 7 rw [if_neg (by omega)]

theorem State.writeReg_reserved (s : State) (ho : o = 0x00C ∨ 0x024 ≤ o) : s.writeReg o v = s := by
  unfold State.writeReg
  iterate 7 rw [if_neg (by omega)]

theorem State.writeCtrl_reset (s : State) (h : v.getLsbD 0 = true) : s.writeCtrl v = s.softReset := if_pos h

theorem State.writeCtrl_ie (s : State) (h : v.getLsbD 0 = false) : s.writeCtrl v = s.writeIe v :=
  if_neg (by rw [h]; decide)

@[simp] theorem State.writeCmd_args (s : State) (v : Word) : (s.writeCmd v).args = s.args := by
  unfold State.writeCmd
  split <;> rfl

@[simp] theorem State.writeCmd_result (s : State) (v : Word) : (s.writeCmd v).result = s.result := by
  unfold State.writeCmd
  split <;> rfl

@[simp] theorem State.writeCmd_ie (s : State) (v : Word) : (s.writeCmd v).ie = s.ie := by
  unfold State.writeCmd
  split <;> rfl

/-- A CMD write never sets DONE. -/
theorem State.done_of_writeCmd_done (h : (s.writeCmd v).done = true) : s.done = true := by
  unfold State.writeCmd at h
  split at h
  · exact h
  · cases h

/-- What a write to the register block can do. -/
theorem State.writeReg_cases (s : State) (o : Nat) (v : Word) :
    (o = 0x000 ∧ v.getLsbD 0 = true ∧ s.writeReg o v = s.softReset) ∨
    (o = 0x000 ∧ v.getLsbD 0 = false ∧ s.writeReg o v = s.writeIe v) ∨
    (o = 0x004 ∧ s.writeReg o v = s.writeStatus v) ∨ (o = 0x008 ∧ s.writeReg o v = s.writeCmd v) ∨
    ((o = 0x010 ∨ o = 0x014 ∨ o = 0x018 ∨ o = 0x01C) ∧ ∃ a, s.writeReg o v = { s with args := a }) ∨
    s.writeReg o v = s := by
  by_cases h0 : o = 0x000
  · subst h0
    cases hv : v.getLsbD 0 with
    | true => exact .inl ⟨rfl, rfl, s.writeCtrl_reset hv⟩
    | false => exact .inr (.inl ⟨rfl, rfl, s.writeCtrl_ie hv⟩)
  · unfold State.writeReg
    split_ifs <;> simp_all

theorem State.writeCmd_busy (v : Word) (h : s.busy = true) : s.writeCmd v = { s with overrun := true } := by
  obtain ⟨p, hp⟩ := Option.isSome_iff_exists.mp h
  simp [State.writeCmd, hp]

theorem State.writeCmd_idle (v : Word) (h : s.busy = false) :
    s.writeCmd v = { s with
      done := false, err := false, errcode := 0
      pending := some { cmd := ⟨v, s.args⟩, races := [], effort := 0 } } := by
  have hp : s.pending = none := Option.isNone_iff_eq_none.mp (by simpa [State.busy] using h)
  simp [State.writeCmd, hp]

end Sys2Proof.Machine
end

section
/-! PROOFS. Registers as the host sees them: what each read returns and what each write does (O12 to O16). -/

namespace Sys2Proof.Machine

/-- Settles O12: a read returns `State.readReg`, and the words CTRL and STATUS are known bit by bit. -/
theorem registerReads : Obligations.RegisterReads := by
  intro s o rest hs h4 ho
  refine ⟨s.readReg o, step_register_read hs h4 ho, ?_, ?_, ?_, ?_, ?_, ?_, ?_, ?_, s.readReg_reserved⟩
  · rintro rfl n -
    exact s.ctrlWord_getLsbD n
  · rintro rfl n -
    exact s.statusWord_getLsbD n
  iterate 5 rintro rfl; rfl
  · rintro rfl
    exact BitVec.toNat_setWidth_of_le (show 12 ≤ 32 by decide)

/-- Settles O13: the register file has no arm for a reserved offset, and a write to CTRL or STATUS looks at bits 1:0
or 3:1 only. -/
theorem reservedAccesses : Obligations.ReservedAccesses := by
  refine ⟨fun s o rest h4 ho => ?_, fun s n => ⟨fun hn => ?_, fun hn => ?_⟩, fun s v w h => ?_, fun s v w h => ?_⟩
  · have hlt : o < 0x2000 := by omega
    have hres : o = 0x00C ∨ 0x024 ≤ o := by omega
    refine ⟨fun hs => ?_, fun v hs => ?_⟩
    · rw [step_register_read hs h4 hlt, s.readReg_reserved hres]
    · rw [step_register_write hs h4 hlt, State.writeReg_reserved _ hres]
  · simp [State.ctrlWord_getLsbD, show n ≠ 1 by omega]
  · rw [State.statusWord_getLsbD]
    iterate 5 rw [if_neg (by omega)]
  · have h0 : v.getLsbD 0 = w.getLsbD 0 := getLsbD_congr (k := 0) h (by decide)
    have h1 : v.getLsbD 1 = w.getLsbD 1 := getLsbD_congr (k := 1) h (by decide)
    show s.writeCtrl v = s.writeCtrl w
    simp only [State.writeCtrl, State.writeIe, h0, h1]
  · have h1 : v.getLsbD 1 = w.getLsbD 1 := getLsbD_congr (k := 0) h (by decide)
    have h2 : v.getLsbD 2 = w.getLsbD 2 := getLsbD_congr (k := 1) h (by decide)
    have h3 : v.getLsbD 3 = w.getLsbD 3 := getLsbD_congr (k := 2) h (by decide)
    show s.writeStatus v = s.writeStatus w
    simp only [State.writeStatus, h1, h2, h3]

/-- Settles O14: the write is `State.writeStatus`, and STATUS is known bit by bit before and after it. -/
theorem statusWriteOneToClear : Obligations.StatusWriteOneToClear := by
  intro s v rest hs
  refine ⟨_, step_register_write hs (by decide) (by decide), rfl, fun n _ => ?_⟩
  show ({ s with agenda := rest }.writeStatus v).statusWord.getLsbD n = _
  simp only [State.statusWord_getLsbD, State.busy, State.writeStatus_pending, State.writeStatus_done,
    State.writeStatus_err, State.writeStatus_overrun, State.writeStatus_errcode]
  obtain rfl | rfl | rfl | rfl | hn : n = 0 ∨ n = 1 ∨ n = 2 ∨ n = 3 ∨ 4 ≤ n := by omega
  iterate 4 rfl
  have hflag : ∀ k, k < 4 → n ≠ k := by omega
  by_cases hcode : 8 ≤ n ∧ n < 12
  · cases v.getLsbD 2 <;> simp [hflag, hcode, show ¬n ≤ 3 by omega]
  · simp [hflag, hcode, show ¬n ≤ 3 by omega]

/-- Settles O15: CTRL holds IE only, and a write to it is `State.writeCtrl`. -/
theorem ctrlFields : Obligations.CtrlFields := by
  refine ⟨State.ctrlWord_getLsbD, fun s v rest hs => ?_⟩
  have hstep : step s = .next ({ s with agenda := rest }.writeCtrl v) := step_register_write (o := 0) hs rfl (by decide)
  refine ⟨fun h => ?_, fun h => ⟨?_, rfl⟩⟩
  · rw [hstep, State.writeCtrl_ie _ h]
    rfl
  · rw [hstep, State.writeCtrl_reset _ h]

/-- Settles O16: a write to CMD is `State.writeCmd`, whose two arms are BUSY and idle. -/
theorem cmdWrites : Obligations.CmdWrites := by
  intro s rest
  refine ⟨fun v hs => ?_, fun hs => step_register_read hs (by decide) (by decide)⟩
  have hstep : step s = .next ({ s with agenda := rest }.writeCmd v) :=
    step_register_write hs (by decide) (by decide)
  refine ⟨fun hb => ?_, fun hb => ?_⟩
  · exact hstep.trans (congrArg Host.Outcome.next (State.writeCmd_busy v hb))
  · exact hstep.trans (congrArg Host.Outcome.next (State.writeCmd_idle v hb))

end Sys2Proof.Machine
end

section
/-! PROOFS. The registers that only the host writes, ARG0 to ARG3 and CTRL.IE: every operation of the engine gives the
same result whatever they hold, and leaves them as they are (10_state.md R32). -/

namespace Sys2Proof.Machine

variable (s : State) (live : Args) (ie : Bool)

/-- The state with other values in the registers that only the host writes. -/
def State.withHostRegs (s : State) (live : Args) (ie : Bool) : State := { s with args := live, ie := ie }

@[simp] theorem State.withHostRegs_self : s.withHostRegs s.args s.ie = s := rfl
@[simp] theorem State.withHostRegs_params : (s.withHostRegs live ie).params = s.params := rfl
@[simp] theorem State.withHostRegs_draws : (s.withHostRegs live ie).draws = s.draws := rfl
@[simp] theorem State.withHostRegs_fetch : (s.withHostRegs live ie).fetch = s.fetch := rfl
@[simp] theorem State.withHostRegs_races : (s.withHostRegs live ie).races = s.races := rfl
@[simp] theorem State.withHostRegs_windows : (s.withHostRegs live ie).windows = s.windows := rfl
@[simp] theorem State.withHostRegs_preg (r : Nat) : (s.withHostRegs live ie).preg r = s.preg r := rfl
@[simp] theorem State.withHostRegs_readBytes (a n : Nat) :
    (s.withHostRegs live ie).readBytes a n = s.readBytes a n := rfl

/-- This and the next proof are no bare `rfl`: as definitional rules they would have `simp` unfold the byte strings
that a KEM command has written. -/
@[simp] theorem State.withHostRegs_afterKem :
    (s.withHostRegs live ie).afterKem = s.afterKem.withHostRegs live ie := by
  cases s
  rfl

@[simp] theorem State.afterKem_result : s.afterKem.result = s.result := by
  cases s
  rfl

@[simp] theorem State.withHostRegs_writeBytes (a : Nat) (B : List Byte) :
    (s.withHostRegs live ie).writeBytes a B = (s.writeBytes a B).withHostRegs live ie := by
  induction B generalizing a s with
  | nil => rfl
  | cons b B ih => exact ih (s.writeByte a b) (a + 1)

@[simp] theorem State.withHostRegs_scramble (rs : List Region) :
    (s.withHostRegs live ie).scramble rs = (s.scramble rs).withHostRegs live ie := by
  induction rs generalizing s with
  | nil => rfl
  | cons r rs ih => simp only [State.scramble, State.withHostRegs_params, State.withHostRegs_draws,
      State.withHostRegs_writeBytes, ih]

@[simp] theorem State.withHostRegs_scrambleBytes (as : List Nat) :
    (s.withHostRegs live ie).scrambleBytes as = (s.scrambleBytes as).withHostRegs live ie := by
  induction as generalizing s with
  | nil => rfl
  | cons a as ih => exact ih (s.writeByte a (Config.freeByte s.draws a))

@[simp] theorem State.withHostRegs_scrambleDest (d : Dest) :
    (s.withHostRegs live ie).scrambleDest d = (s.scrambleDest d).withHostRegs live ie := by
  cases d <;> rfl

theorem State.withHostRegs_raceOutcome (i : Instr) :
    (s.withHostRegs live ie).raceOutcome i = (s.raceOutcome i).withHostRegs live ie := by
  simp only [State.raceOutcome, State.withHostRegs_scramble, State.withHostRegs_races,
    State.withHostRegs_scrambleBytes, State.withHostRegs_scrambleDest]
  rfl

theorem State.withHostRegs_failCommand (e : ErrCode) (outs : List Region) :
    (s.withHostRegs live ie).failCommand e outs = (s.failCommand e outs).withHostRegs live ie := by
  simp only [State.failCommand, State.withHostRegs_races]
  split
  · rfl
  · rw [State.withHostRegs_scramble, State.withHostRegs_scrambleBytes]
    rfl

end Sys2Proof.Machine
end

section
/-! PROOFS. Which registers a failed or raced command leaves as they are, and what completion does to STATUS. -/

namespace Sys2Proof.Machine

theorem State.failCommand_pending (s : State) (e : ErrCode) (outs : List Region) :
    (s.failCommand e outs).pending = none := by
  unfold State.failCommand
  split <;> rfl

theorem State.failCommand_done (s : State) (e : ErrCode) (outs : List Region) :
    (s.failCommand e outs).done = true := by
  unfold State.failCommand
  split <;> rfl

theorem State.failCommand_result (s : State) (e : ErrCode) (outs : List Region) :
    (s.failCommand e outs).result = s.result := by
  unfold State.failCommand
  split <;> simp

/-- A raced command leaves RESULT as it is unless it is the one that writes it. -/
theorem State.raceOutcome_result (s : State) {i : Instr} (h : dest i ≠ .result) :
    (s.raceOutcome i).result = s.result := by
  have hdest : ∀ u : State, (u.scrambleDest (dest i)).result = u.result := by
    cases hd : dest i <;> simp_all [State.scrambleDest]
  simp [State.raceOutcome, hdest]

end Sys2Proof.Machine
end

section
/-! PROOFS. The frame of every command's effect: no effect reads or writes ARG0 to ARG3 or CTRL.IE, and only that of
MULMOD writes RESULT (10_state.md R29, R32). -/

namespace Sys2Proof.Machine

variable {i : Instr} {effect : State → Option State} {s t : State}

/-- An effect that neither reads nor writes the host's registers. -/
def IgnoresHostRegs (effect : State → Option State) : Prop :=
  ∀ s live ie, effect (s.withHostRegs live ie) = (effect s).map (·.withHostRegs live ie)

/-- An effect that leaves RESULT as it is. -/
def KeepsResult (effect : State → Option State) : Prop := ∀ ⦃s u⦄, effect s = some u → u.result = s.result

/-- The frame of an effect that writes MEM and P only. -/
structure EffectFrame (effect : State → Option State) : Prop where
  ignoresHostRegs : IgnoresHostRegs effect
  keepsResult : KeepsResult effect

/-- The frame of a command, as its effect run in `runCommand`. -/
def CommandFrame (i : Instr) : Prop :=
  ∃ effect, (∀ s, exec i s = runCommand i effect s) ∧ IgnoresHostRegs effect ∧ (dest i ≠ .result → KeepsResult effect)

theorem EffectFrame.command (he : EffectFrame effect) (h : ∀ s, exec i s = runCommand i effect s) : CommandFrame i :=
  ⟨effect, h, he.ignoresHostRegs, fun _ => he.keepsResult⟩

/-! ### The effects that several commands share -/

theorem writeBytes_frame {a : Nat} {B : State → List Byte} (hB : ∀ s live ie, B (s.withHostRegs live ie) = B s) :
    EffectFrame fun s => some (s.writeBytes a (B s)) where
  ignoresHostRegs s live ie := by simp [hB]
  keepsResult := by
    rintro s _ ⟨⟩
    simp

theorem setPreg_frame {r : Nat} {f : State → Poly} (hf : ∀ s live ie, f (s.withHostRegs live ie) = f s) :
    EffectFrame fun s => some (s.setPreg r (f s)) where
  ignoresHostRegs s live ie := by
    simp only [hf]
    rfl
  keepsResult := by
    rintro s _ ⟨⟩
    rfl

theorem pregToMem_frame {n : Nat} {f : List Nat → List Byte} {takesAll : Bool} {src dst : Word} :
    EffectFrame (pregToMem n f takesAll src dst) where
  ignoresHostRegs s live ie := by
    simp only [pregToMem, State.freeMem, State.withHostRegs_preg, State.withHostRegs_writeBytes,
      State.withHostRegs_draws]
    split <;> rfl
  keepsResult s u hu := by
    simp only [pregToMem] at hu
    split at hu <;> cases hu <;> simp [State.freeMem]

theorem pregUnary_frame {f : List Nat → List Nat} {d a : Word} : EffectFrame (pregUnary f d a) where
  ignoresHostRegs s live ie := by
    simp only [pregUnary, State.withHostRegs_preg, apply_ite (Option.map _)]
    rfl
  keepsResult s u hu := by
    simp only [pregUnary] at hu
    split at hu <;> cases hu <;> rfl

theorem pregBinary_frame {f : List Nat → List Nat → List Nat} {d a b : Word} : EffectFrame (pregBinary f d a b) where
  ignoresHostRegs s live ie := by
    simp only [pregBinary, State.withHostRegs_preg, apply_ite (Option.map _)]
    rfl
  keepsResult s u hu := by
    simp only [pregBinary] at hu
    split at hu <;> cases hu <;> rfl

/-! ### The commands with an effect of their own -/

theorem mulmod_frame (a b : Word) : CommandFrame (.mulmod a b) := by
  refine ⟨_, fun _ => rfl, fun s live ie => ?_, fun h => absurd rfl h⟩
  split <;> rfl

theorem samplentt_frame (dst rho idx : Word) : CommandFrame (.samplentt dst rho idx) := by
  refine EffectFrame.command ⟨fun s live ie => ?_, fun s u hu => ?_⟩ fun _ => rfl
  · simp only [State.withHostRegs_windows, State.withHostRegs_readBytes]
    split <;> rfl
  · split at hu <;> cases hu
    rfl

theorem keygen_frame (d z pk sk : Word) : CommandFrame (.keygen d z pk sk) := by
  refine EffectFrame.command ⟨fun s live ie => ?_, fun s u hu => ?_⟩ fun _ => rfl
  · simp only [State.withHostRegs_windows, State.withHostRegs_readBytes, State.withHostRegs_writeBytes]
    split <;> rfl
  · split at hu <;> cases hu
    simp

theorem encaps_frame (pk m ct key : Word) : CommandFrame (.encaps pk m ct key) := by
  refine EffectFrame.command ⟨fun s live ie => ?_, fun s u hu => ?_⟩ fun _ => rfl
  · simp only [State.withHostRegs_windows, State.withHostRegs_readBytes, State.withHostRegs_writeBytes,
      State.withHostRegs_draws, State.withHostRegs_afterKem]
    split
    · rfl
    · simp only [apply_ite (Option.map _), Option.map_some]
  · split at hu
    · cases hu
    · split at hu <;> obtain rfl := Option.some.inj hu <;> simp

theorem decaps_frame (sk ct key : Word) : CommandFrame (.decaps sk ct key) := by
  refine EffectFrame.command ⟨fun s live ie => ?_, fun s u hu => ?_⟩ fun _ => rfl
  · simp only [State.withHostRegs_params, State.withHostRegs_windows, State.withHostRegs_readBytes,
      State.withHostRegs_writeBytes, State.withHostRegs_draws, State.withHostRegs_afterKem]
    split
    · rfl
    · simp only [apply_ite (Option.map _), Option.map_some]
  · split at hu
    · cases hu
    · split at hu <;> obtain rfl := Option.some.inj hu <;> simp

theorem nop_frame : CommandFrame .nop :=
  EffectFrame.command ⟨fun _ _ _ => rfl, fun _ _ hu => Option.some.inj hu ▸ rfl⟩ fun _ => rfl

/-! ### Every command, and the engine's turn -/

theorem command_frame (i : Instr) : CommandFrame i := by
  cases i
  case nop => exact nop_frame
  case keccakf => exact (writeBytes_frame fun _ _ _ => rfl).command fun _ => rfl
  case sha3_256 => exact (writeBytes_frame fun _ _ _ => rfl).command fun _ => rfl
  case sha3_512 => exact (writeBytes_frame fun _ _ _ => rfl).command fun _ => rfl
  case prf => exact (writeBytes_frame fun _ _ _ => rfl).command fun _ => rfl
  case xof => exact (writeBytes_frame fun _ _ _ => rfl).command fun _ => rfl
  case mulmod => exact mulmod_frame _ _
  case padd => exact pregBinary_frame.command fun _ => rfl
  case psub => exact pregBinary_frame.command fun _ => rfl
  case ntt => exact pregUnary_frame.command fun _ => rfl
  case intt => exact pregUnary_frame.command fun _ => rfl
  case basemul => exact pregBinary_frame.command fun _ => rfl
  case cbd2 => exact (setPreg_frame fun _ _ _ => rfl).command fun _ => rfl
  case samplentt => exact samplentt_frame _ _ _
  case enc12 => exact pregToMem_frame.command fun _ => rfl
  case dec12 => exact (setPreg_frame fun _ _ _ => rfl).command fun _ => rfl
  case comp10 => exact pregToMem_frame.command fun _ => rfl
  case decomp10 => exact (setPreg_frame fun _ _ _ => rfl).command fun _ => rfl
  case comp4 => exact pregToMem_frame.command fun _ => rfl
  case decomp4 => exact (setPreg_frame fun _ _ _ => rfl).command fun _ => rfl
  case tomsg => exact pregToMem_frame.command fun _ => rfl
  case frommsg => exact (setPreg_frame fun _ _ _ => rfl).command fun _ => rfl
  case keygen => exact keygen_frame _ _ _ _
  case encaps => exact encaps_frame _ _ _ _
  case decaps => exact decaps_frame _ _ _

theorem runCommand_withHostRegs (he : IgnoresHostRegs effect) (h : runCommand i effect s = .next t) (live : Args)
    (ie : Bool) : runCommand i effect (s.withHostRegs live ie) = .next (t.withHostRegs live ie) := by
  have heff := he s live ie
  obtain ⟨e, hc, rfl⟩ | ⟨hc, hrun, rfl⟩ | ⟨hc, hr, ⟨u, hu⟩, rfl⟩ | ⟨hc, hr, u, hu, rfl⟩ := runCommand_cases h
  · rw [runCommand_failed (s := s.withHostRegs live ie) hc, State.withHostRegs_failCommand]
  · rw [runCommand_running (s := s.withHostRegs live ie) hc (by rw [heff, hrun]; rfl)]
    rfl
  · rw [runCommand_raced (s := s.withHostRegs live ie) hc hr (by rw [heff, hu]; rfl), State.withHostRegs_raceOutcome]
  · rw [runCommand_completed (s := s.withHostRegs live ie) hc hr (by rw [heff, hu]; rfl)]
    rfl

/-- A command never changes RESULT but by completing as the one that writes it. -/
theorem exec_result (h : exec i s = .next t) (hne : t.result ≠ s.result) : t.pending = none ∧ dest i = .result := by
  obtain ⟨effect, hexec, -, hkeeps⟩ := command_frame i
  rw [hexec] at h
  obtain ⟨e, -, rfl⟩ | ⟨-, -, rfl⟩ | ⟨-, -, -, rfl⟩ | ⟨-, -, u, hu, rfl⟩ := runCommand_cases h
  · exact absurd (s.failCommand_result e _) hne
  · exact absurd rfl hne
  · exact ⟨rfl, of_not_not fun hd => hne (s.raceOutcome_result hd)⟩
  · exact ⟨rfl, of_not_not fun hd => hne (u.completeOk_result.trans (hkeeps hd hu))⟩

/-- A command either leaves DONE as it is or completes. -/
theorem exec_done (h : exec i s = .next t) : t.done = s.done ∨ (t.pending = none ∧ t.done = true) := by
  obtain ⟨effect, hexec, -, -⟩ := command_frame i
  rw [hexec] at h
  obtain ⟨e, -, rfl⟩ | ⟨-, -, rfl⟩ | ⟨-, -, -, rfl⟩ | ⟨-, -, u, -, rfl⟩ := runCommand_cases h
  · exact .inr ⟨s.failCommand_pending e _, s.failCommand_done e _⟩
  · exact .inl rfl
  · exact .inr ⟨rfl, rfl⟩
  · exact .inr ⟨rfl, rfl⟩

theorem exec_withHostRegs (h : exec i s = .next t) (live : Args) (ie : Bool) :
    exec i (s.withHostRegs live ie) = .next (t.withHostRegs live ie) := by
  obtain ⟨effect, hexec, hignores, -⟩ := command_frame i
  rw [hexec] at h ⊢
  exact runCommand_withHostRegs hignores h live ie

end Sys2Proof.Machine
end

section
/-! PROOFS. The engine's turn (10_state.md R33): its three cases, and what it leaves unchanged. -/

namespace Sys2Proof.Machine

variable {s t : State} {c : Command} {i : Instr}

theorem engineStep_idle (hf : s.fetch = none) : engineStep s = .next s := by
  simp only [engineStep, hf]

theorem engineStep_illegal {e : DecodeError} (hf : s.fetch = some c) (hd : decodeCommand c = .error e) :
    engineStep s = .next (s.failCommand .illegalCmd []) := by
  simp only [engineStep, hf, hd]

theorem engineStep_command (hf : s.fetch = some c) (hd : decodeCommand c = .ok i) : engineStep s = exec i s := by
  simp only [engineStep, hf, hd]

/-- A word that decodes is the command that `tableCommand` makes pending. -/
theorem decodeCommand_tableCommand {nbits w : Nat} {i : Instr} (h : decodeTableWord nbits w = some i) :
    decodeCommand (tableCommand nbits w) = .ok i := by
  unfold decodeTableWord decodeBytes at h
  unfold tableCommand
  cases hc : Command.ofBytes (tableWordBytes nbits w) with
  | error e => simp [hc] at h
  | ok cr =>
    cases hd : decodeCommand cr.1 <;> simp_all

/-- What an engine turn can be: nothing is pending, an illegal word completes, or a command has its turn. -/
theorem engineStep_cases (h : engineStep s = .next t) :
    (s.fetch = none ∧ t = s) ∨
    (∃ c e, s.fetch = some c ∧ decodeCommand c = .error e ∧ t = s.failCommand .illegalCmd []) ∨
    (∃ c i, s.fetch = some c ∧ decodeCommand c = .ok i ∧ exec i s = .next t) := by
  cases hf : s.fetch with
  | none =>
    rw [engineStep_idle hf] at h
    exact .inl ⟨rfl, (Host.Outcome.next.inj h).symm⟩
  | some c =>
    cases hd : decodeCommand c with
    | error e =>
      rw [engineStep_illegal hf hd] at h
      exact .inr (.inl ⟨c, e, rfl, hd, (Host.Outcome.next.inj h).symm⟩)
    | ok i =>
      rw [engineStep_command hf hd] at h
      exact .inr (.inr ⟨c, i, rfl, hd, h⟩)

theorem engineStep_withHostRegs (h : engineStep s = .next t) (live : Args) (ie : Bool) :
    engineStep (s.withHostRegs live ie) = .next (t.withHostRegs live ie) := by
  obtain ⟨hf, rfl⟩ | ⟨c, e, hf, hd, rfl⟩ | ⟨c, i, hf, hd, hexec⟩ := engineStep_cases h
  · exact engineStep_idle hf
  · rw [engineStep_illegal (s := s.withHostRegs live ie) hf hd, State.withHostRegs_failCommand]
  · rw [engineStep_command (s := s.withHostRegs live ie) hf hd]
    exact exec_withHostRegs hexec live ie

/-- An engine turn leaves the host's registers as they are: putting their old values back changes nothing. -/
theorem engineStep_hostRegs (h : engineStep s = .next t) : t = t.withHostRegs s.args s.ie := by
  have hself := engineStep_withHostRegs h s.args s.ie
  rw [State.withHostRegs_self, h] at hself
  exact Host.Outcome.next.inj hself

theorem engineStep_args (h : engineStep s = .next t) : t.args = s.args :=
  (congrArg State.args (engineStep_hostRegs h)).trans rfl

theorem engineStep_ie (h : engineStep s = .next t) : t.ie = s.ie :=
  (congrArg State.ie (engineStep_hostRegs h)).trans rfl

/-- An engine turn changes DONE only by completing the pending command. -/
theorem engineStep_done (h : engineStep s = .next t) :
    t.done = s.done ∨ (s.busy = true ∧ t.pending = none ∧ t.done = true) := by
  have busy_of_fetch : ∀ {c}, s.fetch = some c → s.busy = true := fun hf => by
    simpa [State.fetch, State.busy] using congrArg Option.isSome hf
  obtain ⟨-, rfl⟩ | ⟨c, e, hf, -, rfl⟩ | ⟨c, i, hf, -, hexec⟩ := engineStep_cases h
  · exact .inl rfl
  · exact .inr ⟨busy_of_fetch hf, s.failCommand_pending _ _, s.failCommand_done _ _⟩
  · exact (exec_done hexec).imp_right fun hdone => ⟨busy_of_fetch hf, hdone⟩

/-- Only MULMOD writes RESULT, and its command word is 0x10 (30_encoding.md R94). -/
theorem word_of_dest_result (hd : decodeCommand c = .ok i) (hi : dest i = .result) : c.word = 0x10 := by
  obtain ⟨a, b, rfl⟩ : ∃ a b, i = .mulmod a b := by
    cases i <;> simp_all [dest]
  unfold decodeCommand at hd
  split at hd <;> cases hd
  next hw => exact BitVec.eq_of_toNat_eq hw

theorem engineStep_result (h : engineStep s = .next t) (hne : t.result ≠ s.result) :
    t.pending = none ∧ ∃ c, s.fetch = some c ∧ c.word = 0x10 := by
  obtain ⟨-, rfl⟩ | ⟨c, e, -, -, rfl⟩ | ⟨c, i, hf, hd, hexec⟩ := engineStep_cases h
  · exact absurd rfl hne
  · exact absurd (s.failCommand_result _ _) hne
  · obtain ⟨hpending, hdest⟩ := exec_result hexec hne
    exact ⟨hpending, c, hf, word_of_dest_result hd hdest⟩

end Sys2Proof.Machine
end

section
/-! PROOFS. Every way a step can change a register (10_state.md R22): an engine turn, a write to the register block or a
power-on reset; the other host accesses leave the registers as they are. -/

namespace Sys2Proof.Machine

variable {s t : State}

/-- The two states hold the same in the registers CTRL, ARG0 to ARG3 and RESULT and in STATUS.DONE. -/
structure State.SameRegs (s t : State) : Prop where
  ie : t.ie = s.ie
  done : t.done = s.done
  args : t.args = s.args
  result : t.result = s.result

/-- The state once the next event has been taken off the agenda. -/
def State.popEvent (s : State) : State := { s with agenda := s.agenda.tail }

theorem State.popEvent_of_nil (h : s.agenda = []) : s.popEvent = s := by
  have htail : s.agenda.tail = s.agenda := by rw [h]; rfl
  rw [State.popEvent, htail]

theorem State.popEvent_of_cons {e : Event} {rest : List Event} (h : s.agenda = e :: rest) :
    s.popEvent = { s with agenda := rest } := by
  rw [State.popEvent, h, List.tail_cons]

/-- A MEM-window write changes MEM, the races and the draws only. -/
theorem State.hostWriteByte_sameRegs (s : State) (a : Nat) (v : Byte) : s.SameRegs (s.hostWriteByte a v) := by
  unfold State.hostWriteByte
  split <;> exact ⟨rfl, rfl, rfl, rfl⟩

theorem State.SameRegs.trans {u : State} (h : s.SameRegs t) (h' : t.SameRegs u) : s.SameRegs u :=
  ⟨h'.ie.trans h.ie, h'.done.trans h.done, h'.args.trans h.args, h'.result.trans h.result⟩

theorem State.hostWriteMem_sameRegs (s : State) (a : Nat) (B : List Byte) : s.SameRegs (s.hostWriteMem a B) := by
  induction B generalizing a s with
  | nil => exact ⟨rfl, rfl, rfl, rfl⟩
  | cons b B ih => exact (s.hostWriteByte_sameRegs a b).trans (ih (s.hostWriteByte a b) (a + 1))

/-- A host access writes a register of the register block, or leaves the registers as they are. -/
theorem hostStep_cases {access : HostAccess} (h : hostStep access s = .next t) :
    (∃ o v, access = .write (s.params.base + o) 4 v ∧ t = s.writeReg o v) ∨ s.SameRegs t := by
  cases access with
  | read addr width =>
    simp only [hostStep] at h
    split at h <;> cases h <;> exact .inr ⟨rfl, rfl, rfl, rfl⟩
  | write addr width v =>
    simp only [hostStep] at h
    split at h
    · cases h
    · next o ho =>
      cases h
      obtain ⟨rfl, rfl⟩ := register_of_target ho
      exact .inl ⟨o, v, rfl, rfl⟩
    · cases h
      exact .inr (s.hostWriteMem_sameRegs _ _)

/-- Everything a step can do to the registers. -/
theorem step_cases (h : step s = .next t) :
    ((s.agenda = [] ∨ s.agenda.head? = some .engine) ∧ engineStep s.popEvent = .next t) ∨
    (∃ o v, s.agenda.head? = some (.host (.write (s.params.base + o) 4 v)) ∧ t = s.popEvent.writeReg o v) ∨
    (s.agenda.head? = some .powerOn ∧ t = s.popEvent.powerOn) ∨
    s.SameRegs t := by
  cases ha : s.agenda with
  | nil =>
    rw [State.popEvent_of_nil ha]
    exact .inl ⟨.inl rfl, step_of_nil ha ▸ h⟩
  | cons e rest =>
    rw [step_of_cons ha, ← State.popEvent_of_cons ha] at h
    cases e with
    | engine => exact .inl ⟨.inr rfl, h⟩
    | host access =>
      obtain ⟨o, v, rfl, ht⟩ | hsame := hostStep_cases h
      · exact .inr (.inl ⟨o, v, rfl, ht⟩)
      · exact .inr (.inr (.inr ⟨hsame.ie, hsame.done, hsame.args, hsame.result⟩))
    | wait =>
      cases h
      exact .inr (.inr (.inr ⟨rfl, rfl, rfl, rfl⟩))
    | powerOn =>
      cases h
      exact .inr (.inr (.inl ⟨rfl, rfl⟩))

end Sys2Proof.Machine
end

section
/-! PROOFS. The interrupt level (10_state.md R30) under a write to the register block. -/

namespace Sys2Proof.Machine

theorem State.irq_eq_true {s : State} : s.irq = true ↔ s.ie = true ∧ s.done = true := Bool.and_eq_true_iff

theorem State.irq_eq_false {s : State} : s.irq = false ↔ ¬(s.ie = true ∧ s.done = true) := by
  rw [← State.irq_eq_true, Bool.not_eq_true]

/-- What a register write that lowers irq is (10_state.md R30). -/
theorem writeReg_lowers_irq {s : State} {o : Nat} {v : Word} (hs : s.irq = true) (ht : (s.writeReg o v).irq = false) :
    (o = 0x000 ∧ (v.getLsbD 0 = true ∨ v.getLsbD 1 = false)) ∨ (o = 0x004 ∧ v.getLsbD 1 = true) ∨
      (o = 0x008 ∧ s.busy = false) := by
  obtain ⟨hie, hdone⟩ := State.irq_eq_true.mp hs
  obtain ⟨ho, hv, -⟩ | ⟨ho, -, hw⟩ | ⟨ho, hw⟩ | ⟨ho, hw⟩ | ⟨-, a, hw⟩ | hw := s.writeReg_cases o v
  · exact .inl ⟨ho, .inl hv⟩
  · exact .inl ⟨ho, .inr (by simpa [hw, State.irq, hdone] using ht)⟩
  · exact .inr (.inl ⟨ho, by simpa [hw, State.irq, hie, hdone] using ht⟩)
  · refine .inr (.inr ⟨ho, Bool.eq_false_iff.mpr fun hb => ?_⟩)
    rw [hw, State.writeCmd_busy v hb] at ht
    exact absurd (hs.symm.trans ht) (by decide)
  · rw [hw] at ht
    exact absurd (hs.symm.trans ht) (by decide)
  · rw [hw] at ht
    exact absurd (hs.symm.trans ht) (by decide)

/-- What a register write that raises irq is (10_state.md R30). -/
theorem writeReg_raises_irq {s : State} {o : Nat} {v : Word} (hs : s.irq = false) (ht : (s.writeReg o v).irq = true) :
    o = 0x000 ∧ v.getLsbD 0 = false ∧ v.getLsbD 1 = true ∧ s.done = true := by
  obtain ⟨hie, hdone⟩ := State.irq_eq_true.mp ht
  have not_before := State.irq_eq_false.mp hs
  obtain ⟨-, -, hw⟩ | ⟨ho, hv, hw⟩ | ⟨-, hw⟩ | ⟨-, hw⟩ | ⟨-, a, hw⟩ | hw := s.writeReg_cases o v <;>
    rw [hw] at hie hdone
  · cases hie
  · exact ⟨ho, hv, hie, hdone⟩
  · exact absurd ⟨hie, (Bool.and_eq_true_iff.mp hdone).1⟩ not_before
  · exact absurd ⟨s.writeCmd_ie v ▸ hie, State.done_of_writeCmd_done hdone⟩ not_before
  · exact absurd ⟨hie, hdone⟩ not_before
  · exact absurd ⟨hie, hdone⟩ not_before

end Sys2Proof.Machine
end

section
/-! PROOFS. Who changes the registers: the engine, the host and reset (O5, O17 to O20). -/

namespace Sys2Proof.Machine

/-- Settles O5: a step is the engine's turn, and the turn of a decoded command is its `exec`. -/
theorem stepRunsTheDecodedCommand : Obligations.StepRunsTheDecodedCommand := by
  refine ⟨fun s c i hf hd => ⟨fun ha => ?_, fun rest ha => ?_⟩, fun s hp => ⟨fun ha => ?_, fun rest ha => ?_⟩,
    fun s nbits w i h => ?_⟩
  · rw [step_of_nil ha, engineStep_command hf hd]
  · rw [step_of_cons ha]
    exact engineStep_command hf hd
  · rw [step_of_nil ha, engineStep_idle (by rw [State.fetch, hp]; rfl)]
  · rw [step_of_cons ha]
    exact engineStep_idle (by rw [State.fetch, hp]; rfl)
  · rw [step_of_nil rfl]
    exact engineStep_command rfl (decodeCommand_tableCommand h)

/-- Settles O17: CMD takes the snapshot, and no operation of the engine can tell other live ARG registers. -/
theorem snapshotIsolatesTheCommand : Obligations.SnapshotIsolatesTheCommand := by
  refine ⟨fun s v rest hb hs => ?_, fun s t live h => ?_⟩
  · have hw : State.writeReg 0x008 v { s with agenda := rest } = _ := State.writeCmd_idle v hb
    exact ⟨_, step_register_write hs (by decide) (by decide), by rw [hw]; rfl⟩
  · have hie : t.ie = s.ie := engineStep_ie h
    calc engineStep { s with args := live } = .next (t.withHostRegs live s.ie) := engineStep_withHostRegs h live s.ie
      _ = .next { t with args := live } := by rw [← hie]; rfl

/-- Settles O18: a write to an ARG offset stores its value, and of the ways to change a register only that and the two
resets change ARG0 to ARG3. -/
theorem argRegistersAreStorage : Obligations.ArgRegistersAreStorage := by
  refine ⟨fun s v rest => ⟨?_, ?_, ?_, ?_⟩, fun s t h hne => ?_⟩
  iterate 4 exact fun hs => step_register_write hs (by decide) (by decide)
  obtain ⟨-, hturn⟩ | ⟨o, v, hhead, rfl⟩ | ⟨hhead, rfl⟩ | hsame := step_cases h
  · exact absurd (engineStep_args hturn) hne
  · obtain ⟨rfl, hv, hw⟩ | ⟨-, -, hw⟩ | ⟨-, hw⟩ | ⟨-, hw⟩ | ⟨ho, -⟩ | hw := s.popEvent.writeReg_cases o v
    · exact .inr (.inl ⟨v, hhead, hv, by rw [hw]; rfl⟩)
    · exact absurd (congrArg State.args hw) hne
    · exact absurd (congrArg State.args hw) hne
    · exact absurd ((congrArg State.args hw).trans (State.writeCmd_args _ v)) hne
    · exact .inr (.inr ⟨v, o, hhead, ho⟩)
    · exact absurd (congrArg State.args hw) hne
  · exact .inl ⟨hhead, rfl⟩
  · exact absurd hsame.args hne

/-- Settles O19: of the ways to change a register only a completing MULMOD and the two resets change RESULT. -/
theorem onlyMulmodWritesResult : Obligations.OnlyMulmodWritesResult := by
  refine ⟨fun s => ?_, fun s t h hne => ?_, fun s v rest hs => step_register_write hs (by decide) (by decide)⟩
  · constructor
    · ext k hk
      simp [State.resultWord, hk]
      omega
    · ext k hk
      simp [State.resultWord]
  obtain ⟨hwhen, hturn⟩ | ⟨o, v, hhead, rfl⟩ | ⟨hhead, rfl⟩ | hsame := step_cases h
  · exact .inr (.inr ⟨hwhen, engineStep_result (s := s.popEvent) hturn hne⟩)
  · obtain ⟨rfl, hv, hw⟩ | ⟨-, -, hw⟩ | ⟨-, hw⟩ | ⟨-, hw⟩ | ⟨-, a, hw⟩ | hw := s.popEvent.writeReg_cases o v
    · exact .inr (.inl ⟨v, hhead, hv, by rw [hw]; rfl⟩)
    · exact absurd (congrArg State.result hw) hne
    · exact absurd (congrArg State.result hw) hne
    · exact absurd ((congrArg State.result hw).trans (State.writeCmd_result _ v)) hne
    · exact absurd (congrArg State.result hw) hne
    · exact absurd (congrArg State.result hw) hne
  · exact .inl ⟨hhead, rfl⟩
  · exact absurd hsame.result hne

/-- Settles O20: an engine turn keeps IE and never clears DONE, and the register writes that move irq are known. -/
theorem interruptLevel : Obligations.InterruptLevel := by
  refine ⟨fun s => ?_, fun s t h hs ht => ?_, fun s t h hs ht => ?_⟩
  · rw [State.ctrlWord_getLsbD, State.statusWord_done]
    rfl
  · obtain ⟨hie, hdone⟩ := State.irq_eq_true.mp hs
    have not_after := State.irq_eq_false.mp ht
    obtain ⟨-, hturn⟩ | ⟨o, v, hhead, rfl⟩ | ⟨hhead, -⟩ | hsame := step_cases h
    · obtain hkept | ⟨-, -, hset⟩ := engineStep_done hturn
      · exact absurd ⟨(engineStep_ie hturn).trans hie, hkept.trans hdone⟩ not_after
      · exact absurd ⟨(engineStep_ie hturn).trans hie, hset⟩ not_after
    · exact .inr ⟨o, v, hhead, writeReg_lowers_irq (s := s.popEvent) hs ht⟩
    · exact .inl hhead
    · exact absurd ⟨hsame.ie.trans hie, hsame.done.trans hdone⟩ not_after
  · obtain ⟨hie, hdone⟩ := State.irq_eq_true.mp ht
    have not_before := State.irq_eq_false.mp hs
    obtain ⟨hwhen, hturn⟩ | ⟨o, v, hhead, rfl⟩ | ⟨-, rfl⟩ | hsame := step_cases h
    · have hie' : s.ie = true := (engineStep_ie hturn).symm.trans hie
      obtain hkept | ⟨hbusy, hpending, -⟩ := engineStep_done hturn
      · exact absurd ⟨hie', hkept.symm.trans hdone⟩ not_before
      · exact .inl ⟨hwhen, hie', hbusy, by rw [State.busy, hpending]; rfl⟩
    · obtain ⟨rfl, hv, hset, hdone'⟩ := writeReg_raises_irq (s := s.popEvent) hs ht
      exact .inr ⟨hdone', v, hhead, hv, hset⟩
    · cases hie
    · exact absurd ⟨hsame.ie.symm.trans hie, hsame.done.symm.trans hdone⟩ not_before

end Sys2Proof.Machine
end

section
/-! PROOFS. DECAPS from outside MEM (10_state.md R26): its result exists, and it completes, by ρ of the secret key alone,
and what it leaves outside MEM does not depend on MEM (O45). -/

namespace Sys2Proof.Machine

/-! ### What a state holds outside MEM -/

/-- The state with the bytes of MEM left out: every register, flag, draw and event to come. -/
def State.outsideMem (s : State) : State := { s with mem := [] }

theorem State.outsideMem_writeBytes (s : State) (a : Nat) (B : List Byte) :
    (s.writeBytes a B).outsideMem = s.outsideMem := by
  rw [s.writeBytes_only_mem]
  rfl

theorem State.outsideMem_scramble (s : State) (rs : List Region) : (s.scramble rs).outsideMem = s.outsideMem := by
  rw [s.scramble_only_mem]
  rfl

theorem State.outsideMem_scrambleBytes (s : State) (as : List Nat) :
    (s.scrambleBytes as).outsideMem = s.outsideMem := by
  rw [s.scrambleBytes_only_mem]
  rfl

theorem State.outsideMem_scrambleDest (s : State) (d : Dest) :
    (s.scrambleDest d).outsideMem = s.outsideMem.scrambleDest d := by
  cases d <;> rfl

/-- Every output byte of a raced command is in MEM. -/
theorem State.outsideMem_raceOutcome (s : State) (i : Instr) :
    (s.raceOutcome i).outsideMem = (s.outsideMem.scrambleDest (dest i)).spend.completeOk := by
  have h := ((s.scramble (outputs i)).scrambleBytes s.races).outsideMem_scrambleDest (dest i)
  rw [State.outsideMem_scrambleBytes, State.outsideMem_scramble] at h
  rw [← h]
  rfl

/-- A failed command writes STATUS, and no register whether it was raced or not. -/
theorem State.outsideMem_failCommand (s : State) (e : ErrCode) (outs : List Region) :
    (s.failCommand e outs).outsideMem =
      (if s.races = [] then s.outsideMem else s.outsideMem.spend).completeErr e := by
  unfold State.failCommand
  split
  · next hr => rw [if_pos hr]; rfl
  · next hr =>
    rw [if_neg (by simpa using hr)]
    have h := (s.scramble outs).outsideMem_scrambleBytes s.races
    rw [State.outsideMem_scramble] at h
    rw [← h]
    rfl

/-- Where a command's effect does not show MEM to the outside, neither does the command. -/
theorem runCommand_outsideMem {i : Instr} {effect : State → Option State} {s : State} {m : Memory}
    (he : (effect { s with mem := m }).map State.outsideMem = (effect s).map State.outsideMem) :
    ∃ t t', runCommand i effect s = .next t ∧ runCommand i effect { s with mem := m } = .next t' ∧
      t.outsideMem = t'.outsideMem := by
  cases hc : check s.params i with
  | some e =>
    refine ⟨_, _, runCommand_failed hc, runCommand_failed (s := { s with mem := m }) hc, ?_⟩
    rw [State.outsideMem_failCommand, State.outsideMem_failCommand]
    rfl
  | none =>
    cases hu : effect s with
    | none =>
      have hu' : effect { s with mem := m } = none := by simpa [hu] using he
      exact ⟨_, _, runCommand_running hc hu, runCommand_running (s := { s with mem := m }) hc hu', rfl⟩
    | some u =>
      obtain ⟨u', hu', hout⟩ : ∃ u', effect { s with mem := m } = some u' ∧ u'.outsideMem = u.outsideMem := by
        simpa [hu] using he
      by_cases hr : s.races = []
      · refine ⟨_, _, runCommand_completed hc hr hu, runCommand_completed (s := { s with mem := m }) hc hr hu', ?_⟩
        exact congrArg State.completeOk hout.symm
      · refine ⟨_, _, runCommand_raced hc hr hu, runCommand_raced (s := { s with mem := m }) hc hr hu', ?_⟩
        rw [State.outsideMem_raceOutcome, State.outsideMem_raceOutcome]
        rfl

/-! ### The result of DECAPS -/

/-- A part of a byte string read from MEM is what MEM holds there. -/
theorem slice_readBytes (s : State) (a : Nat) {x y n : Nat} (hy : y ≤ n) :
    slice (s.readBytes a n) x y = s.readBytes (a + x) (y - x) := by
  refine List.ext_getElem (by simp; omega) fun k hk _ => ?_
  simp [slice, State.readBytes, Nat.add_assoc]

theorem slice_slice (B : List Byte) {a b c d : Nat} (h : d ≤ b - a) :
    slice (slice B a b) c d = slice B (a + c) (a + d) := by
  simp only [slice, List.drop_take, List.drop_drop, List.take_take]
  congr 1
  omega

/-- Encrypt has a result exactly where the rejection loops of its ρ have stopped. -/
theorem encrypt_isSome (w : Nat) (pk m r : List Byte) :
    (encrypt w pk m r).isSome = (genMatrix w (slice pk 1152 1184)).isSome := by
  simp only [encrypt]
  split <;> simp_all

/-- Decaps has a result exactly where the rejection loops of the ρ of its public key have stopped. -/
theorem decapsulate_isSome (rh : RejectHash) (w : Nat) (sk ct : List Byte) :
    (decapsulate rh w sk ct).isSome = (genMatrix w (slice sk 2304 2336)).isSome := by
  rw [← slice_slice sk (a := 1152) (b := 2336) (c := 1152) (d := 1184) (by decide)]
  rw [← encrypt_isSome w _ (decrypt sk ct) (slice (hashG (decrypt sk ct ++ slice sk 2336 2368)) 32 64)]
  simp only [decapsulate]
  split <;> simp_all

/-- Outside MEM, the effect of DECAPS is that P becomes unspecified, once the loops of its ρ have stopped; which branch
it took, and whether its key was in contract, shows in MEM only. -/
theorem decaps_outsideMem (sk ct key : Word) :
    ∃ effect, (∀ s, exec (.decaps sk ct key) s = runCommand (.decaps sk ct key) effect s) ∧
      ∀ s, (effect s).map State.outsideMem =
        if (genMatrix s.windows (s.readBytes (sk.toNat + 2304) 32)).isSome then some s.outsideMem.afterKem else none := by
  refine ⟨_, fun _ => rfl, fun s => ?_⟩
  have hstop := decapsulate_isSome s.params.rejectHash s.windows (s.readBytes sk.toNat 2400) (s.readBytes ct.toNat 1088)
  rw [slice_readBytes _ _ (by decide)] at hstop
  have hwrite : ∀ B, (s.writeBytes key.toNat B).afterKem.outsideMem = s.outsideMem.afterKem := fun B => by
    rw [← s.outsideMem_writeBytes key.toNat B]
    rfl
  rw [← hstop]
  split
  · next hnone => simp [hnone]
  · next hsome =>
    simp only [hsome, apply_ite (Option.map _), Option.map_some, hwrite, ite_self, Option.isSome_some, if_true]

/-- Settles O45: with ρ kept, DECAPS completes in both cases or in neither, and what it does outside MEM is the same. -/
theorem decapsBranchIsInvisible : Obligations.DecapsBranchIsInvisible := by
  intro s m sk ct key hrho
  obtain ⟨effect, hexec, heffect⟩ := decaps_outsideMem sk ct key
  rw [hexec, hexec]
  refine runCommand_outsideMem ?_
  rw [heffect, heffect, hrho]
  rfl

end Sys2Proof.Machine
end

section
/-! PROOFS. The bytes of a data word of the MEM window, little-endian (20_memory.md R60). -/

namespace Sys2Proof.Machine

theorem leNat_lt (bs : List Byte) : leNat bs < 256 ^ bs.length := by
  induction bs with
  | nil => exact Nat.one_pos
  | cons b bs ih =>
    have hb : b.toNat < 256 := b.isLt
    rw [leNat, List.length_cons, Nat.pow_succ']
    omega

/-- Byte `k` of the number that a byte string stands for. -/
theorem leNat_div_mod (bs : List Byte) (k : Nat) : leNat bs / 256 ^ k % 256 = (bs.getD k 0).toNat := by
  induction bs generalizing k with
  | nil => simp [leNat]
  | cons b bs ih =>
    have hb : b.toNat < 256 := b.isLt
    cases k with
    | zero =>
      rw [leNat, Nat.pow_zero, Nat.div_one, Nat.add_mul_mod_self_left, Nat.mod_eq_of_lt hb]
      rfl
    | succ k =>
      rw [leNat, Nat.pow_succ', ← Nat.div_div_eq_div_mul, Nat.add_mul_div_left _ _ (by decide),
        Nat.div_eq_of_lt hb, Nat.zero_add, ih]
      rfl

/-- Byte `k` of the little-endian bytes of a number. -/
theorem leBytes_getD {n k : Nat} (hk : k < n) (v : Nat) : (leBytes n v).getD k 0 = BitVec.ofNat 8 (v / 256 ^ k) := by
  induction n generalizing k v with
  | zero => omega
  | succ n ih =>
    cases k with
    | zero => simp [leBytes]
    | succ k => rw [leBytes, List.getD_cons_succ, ih (by omega), Nat.div_div_eq_div_mul, Nat.pow_succ']

/-- Byte `k` of a data word, by its value. -/
theorem extract_byte_toNat (v : Word) (k : Nat) : (v.extractLsb' (8 * k) 8).toNat = v.toNat / 256 ^ k % 256 := by
  rw [BitVec.extractLsb'_toNat, Nat.shiftRight_eq_div_pow, Nat.pow_mul]

theorem leBytes_word_getD {n k : Nat} (hk : k < n) (v : Word) :
    (leBytes n v.toNat).getD k 0 = v.extractLsb' (8 * k) 8 := by
  refine BitVec.eq_of_toNat_eq ?_
  rw [leBytes_getD hk, extract_byte_toNat, BitVec.toNat_ofNat]

/-- The data word that carries up to four bytes. -/
theorem toNat_dataWord {bs : List Byte} (h : bs.length ≤ 4) : (BitVec.ofNat 32 (leNat bs)).toNat = leNat bs := by
  have hlt : leNat bs < 256 ^ 4 := (leNat_lt bs).trans_le (Nat.pow_le_pow_right (by decide) h)
  exact (BitVec.toNat_ofNat _ _).trans (Nat.mod_eq_of_lt hlt)

theorem dataWord_extract_byte {bs : List Byte} (h : bs.length ≤ 4) (k : Nat) :
    (BitVec.ofNat 32 (leNat bs)).extractLsb' (8 * k) 8 = bs.getD k 0 := by
  refine BitVec.eq_of_toNat_eq ?_
  rw [extract_byte_toNat, toNat_dataWord h, leNat_div_mod]

/-- The spec's sum of weighted bytes is the number that the byte string stands for. -/
theorem littleEndian_eq_leNat (w : Nat) (byte : Nat → Byte) :
    littleEndian w byte = leNat ((List.range w).map byte) := by
  induction w generalizing byte with
  | zero => rfl
  | succ w ih =>
    have hrest : ∑ i ∈ Finset.range w, (byte (i + 1)).toNat * 2 ^ (8 * (i + 1)) =
        256 * littleEndian w (fun i => byte (i + 1)) := by
      rw [littleEndian, Finset.mul_sum]
      refine Finset.sum_congr rfl fun i _ => ?_
      rw [Nat.mul_succ, Nat.pow_add]
      ring
    rw [littleEndian, Finset.sum_range_succ', hrest, ih, List.range_succ_eq_map, List.map_cons, List.map_map, leNat]
    simp [Nat.add_comm, Function.comp_def]

end Sys2Proof.Machine
end

section
/-! PROOFS. One host access to the MEM window (20_memory.md R60, R62), as a step. -/

namespace Sys2Proof.Machine

variable {s : State} {a w : Nat} {v : Word} {rest : List Event}

theorem target_window (p : Params) (hw : w = 1 ∨ w = 2 ∨ w = 4) (ha : a % w = 0) (hin : a + w ≤ p.memSize) :
    target p (p.base + 0x2000 + a) w = .ok (.mem a) := by
  simp [target, hw, Nat.add_assoc, ha, hin]

theorem step_window_read (hs : s.agenda = .host (.read (s.params.base + 0x2000 + a) w) :: rest)
    (hw : w = 1 ∨ w = 2 ∨ w = 4) (ha : a % w = 0) (hin : a + w ≤ s.params.memSize) :
    step s = .next ({ s with agenda := rest }.hostReadMem a w) := by
  simp only [step_of_cons hs, runEvent, hostStep, target_window s.params hw ha hin]

theorem step_window_write (hs : s.agenda = .host (.write (s.params.base + 0x2000 + a) w v) :: rest)
    (hw : w = 1 ∨ w = 2 ∨ w = 4) (ha : a % w = 0) (hin : a + w ≤ s.params.memSize) :
    step s = .next ({ s with agenda := rest }.hostWriteMem a (leBytes w v.toNat)) := by
  simp only [step_of_cons hs, runEvent, hostStep, target_window s.params hw ha hin]

/-- At or above BASE the defined accesses are those that reach a register or MEM (20_memory.md R60 to R62). -/
theorem HostAccess.defined_iff_target {p : Params} {h : HostAccess} (hbase : p.base ≤ h.addr) :
    h.defined p ↔ ∃ t, target p h.addr h.width = .ok t := by
  have hmod (o : Nat) (hw : h.width = 1 ∨ h.width = 2 ∨ h.width = 4) (ho : 0x2000 ≤ o) :
      (o - 0x2000) % h.width = o % h.width := by
    obtain hw | hw | hw := hw <;> rw [hw] <;> omega
  unfold HostAccess.defined target
  split_ifs with hbelow hblock hword hwidth hwindow
  · omega
  · exact iff_of_true (.inl ⟨hblock, hword⟩) ⟨_, rfl⟩
  · exact iff_of_false (by omega) nofun
  · have ho : 0x2000 ≤ h.addr - p.base := by omega
    rw [hmod _ hwidth.1 ho] at hwidth
    exact iff_of_true (.inr ⟨ho, hwidth.1, hwidth.2, by omega⟩) ⟨_, rfl⟩
  · exact iff_of_false (by omega) nofun
  · refine iff_of_false ?_ nofun
    rintro (⟨hlt, -⟩ | ⟨ho, hw, halign, -⟩)
    · exact hblock hlt
    · exact hwidth ⟨hw, (hmod _ hw ho).trans halign⟩

theorem hostStep_of_target_ok {h : HostAccess} {x : Target} (hx : target s.params h.addr h.width = .ok x) :
    ∃ t, hostStep h s = .next t := by
  cases h <;> cases x <;> simp only [HostAccess.addr, HostAccess.width] at hx <;> simp only [hostStep, hx] <;>
    exact ⟨_, rfl⟩

theorem hostStep_of_target_error {h : HostAccess} {r : Refusal} (hr : target s.params h.addr h.width = .error r) :
    hostStep h s = .refused r := by
  cases h <;> simp only [HostAccess.addr, HostAccess.width] at hr <;> simp only [hostStep, hr]

/-- Settles O9: an access is refused exactly where `target` finds nothing that it reaches. -/
theorem undefinedAccessesAreRefused : Obligations.UndefinedAccessesAreRefused := by
  intro s h rest hs hbase
  rw [step_of_cons hs, HostAccess.defined_iff_target hbase]
  refine ⟨fun ⟨x, hx⟩ => hostStep_of_target_ok (s := { s with agenda := rest }) hx, fun hundefined => ?_⟩
  cases hx : target s.params h.addr h.width with
  | error r => exact ⟨r, hostStep_of_target_error (s := { s with agenda := rest }) hx⟩
  | ok x => exact absurd ⟨x, hx⟩ hundefined

end Sys2Proof.Machine
end

section
/-! PROOFS. What a host write to the MEM window does byte by byte, with the races it notes (20_memory.md R60, R70). -/

namespace Sys2Proof.Machine

variable (s : State) (a : Nat)

/-- A MEM-window write changes MEM, the races and the draws only. -/
theorem State.hostWriteByte_frame (v : Byte) :
    s.hostWriteByte a v = { s with
      mem := (s.hostWriteByte a v).mem, draws := (s.hostWriteByte a v).draws
      pending := (s.hostWriteByte a v).pending } := by
  unfold State.hostWriteByte
  split <;> rfl

theorem State.hostWriteByte_away {v : Byte} (h : s.inRegions a = false) : s.hostWriteByte a v = s.writeByte a v :=
  if_neg (by rw [h]; decide)

theorem State.hostWriteByte_raced {v : Byte} (h : s.inRegions a = true) :
    s.hostWriteByte a v = (s.writeByte a (Config.freeByte s.draws a)).spend.noteRace a := if_pos h

@[simp] theorem State.fetch_hostWriteByte (v : Byte) : (s.hostWriteByte a v).fetch = s.fetch := by
  unfold State.hostWriteByte
  split
  · exact State.fetch_noteRace _ a
  · rfl

@[simp] theorem State.inRegions_hostWriteByte (v : Byte) (x : Nat) :
    (s.hostWriteByte a v).inRegions x = s.inRegions x := State.inRegions_congr (s.fetch_hostWriteByte a v) x

theorem State.readByte_hostWriteByte (v : Byte) (x : Nat) :
    (s.hostWriteByte a v).readByte x =
      if x = a then if s.inRegions a then Config.freeByte s.draws a else v else s.readByte x := by
  unfold State.hostWriteByte
  split <;> exact State.readByte_writeByte _ _ _ _

theorem State.draws_hostWriteByte (v : Byte) :
    (s.hostWriteByte a v).draws = if s.inRegions a then s.draws + 1 else s.draws := by
  unfold State.hostWriteByte
  split <;> rfl

/-- Only a pending command has regions. -/
theorem State.pending_of_inRegions {s : State} {a : Nat} (h : s.inRegions a = true) : ∃ p, s.pending = some p := by
  cases hp : s.pending with
  | none => simp [State.inRegions, State.inOutputs, State.pendingRegions, State.fetch, hp] at h
  | some p => exact ⟨p, rfl⟩

theorem State.mem_races_hostWriteByte (v : Byte) (x : Nat) :
    x ∈ (s.hostWriteByte a v).races ↔ x ∈ s.races ∨ (x = a ∧ s.inRegions x = true) := by
  cases h : s.inRegions a with
  | false =>
    rw [s.hostWriteByte_away a h]
    exact ⟨.inl, fun hx => hx.resolve_right fun ⟨hxa, hreg⟩ => by simp [hxa, h] at hreg⟩
  | true =>
    obtain ⟨p, hp⟩ := State.pending_of_inRegions h
    rw [s.hostWriteByte_raced a h]
    simp only [State.races, State.noteRace_pending, State.spend_pending, State.writeByte_pending, hp, Option.map_some,
      List.mem_cons]
    constructor
    · rintro (rfl | hx)
      · exact .inr ⟨rfl, h⟩
      · exact .inl hx
    · rintro (hx | ⟨rfl, -⟩)
      · exact .inr hx
      · exact .inl rfl

/-! ### The bytes of a data word -/

theorem State.hostWriteMem_frame (B : List Byte) :
    s.hostWriteMem a B = { s with
      mem := (s.hostWriteMem a B).mem, draws := (s.hostWriteMem a B).draws
      pending := (s.hostWriteMem a B).pending } := by
  induction B generalizing a s with
  | nil => rfl
  | cons b B ih => rw [State.hostWriteMem, ih, s.hostWriteByte_frame]

theorem State.fetch_hostWriteMem (B : List Byte) : (s.hostWriteMem a B).fetch = s.fetch := by
  induction B generalizing a s with
  | nil => rfl
  | cons b B ih => rw [State.hostWriteMem, ih, State.fetch_hostWriteByte]

theorem State.draws_le_hostWriteMem (B : List Byte) : s.draws ≤ (s.hostWriteMem a B).draws := by
  induction B generalizing a s with
  | nil => exact Nat.le_refl _
  | cons b B ih =>
    refine Nat.le_trans ?_ (ih (s.hostWriteByte a b) (a + 1))
    rw [State.draws_hostWriteByte]
    split <;> omega

/-- Away from the regions of a running command a host write is a plain write. -/
theorem State.hostWriteMem_away {B : List Byte} (h : ∀ k, k < B.length → s.inRegions (a + k) = false) :
    s.hostWriteMem a B = s.writeBytes a B := by
  induction B generalizing a s with
  | nil => rfl
  | cons b B ih =>
    rw [State.hostWriteMem, State.writeBytes, ← s.hostWriteByte_away a (h 0 (by simp))]
    refine ih _ _ fun k hk => ?_
    rw [State.inRegions_hostWriteByte, Nat.add_right_comm]
    exact h (k + 1) (Nat.succ_lt_succ hk)

theorem State.readByte_hostWriteMem_outside {B : List Byte} {x : Nat} (h : x < a ∨ a + B.length ≤ x) :
    (s.hostWriteMem a B).readByte x = s.readByte x := by
  induction B generalizing a s with
  | nil => rfl
  | cons b B ih =>
    rw [List.length_cons] at h
    rw [State.hostWriteMem, ih _ _ (by omega), State.readByte_hostWriteByte, if_neg (by omega)]

/-- The first byte of a host write: what follows it goes to higher addresses. -/
theorem State.readByte_hostWriteMem_first (b : Byte) (B : List Byte) :
    (s.hostWriteMem a (b :: B)).readByte a = if s.inRegions a then Config.freeByte s.draws a else b := by
  rw [State.hostWriteMem, State.readByte_hostWriteMem_outside _ _ (by omega), State.readByte_hostWriteByte, if_pos rfl]

theorem State.readByte_hostWriteMem_away {B : List Byte} {k : Nat} (hk : k < B.length)
    (h : s.inRegions (a + k) = false) : (s.hostWriteMem a B).readByte (a + k) = B.getD k 0 := by
  induction B generalizing a s k with
  | nil => cases hk
  | cons b B ih =>
    cases k with
    | zero =>
      rw [Nat.add_zero] at h ⊢
      rw [State.readByte_hostWriteMem_first, h]
      rfl
    | succ k =>
      rw [← Nat.add_assoc, Nat.add_right_comm] at h ⊢
      exact ih _ _ (Nat.lt_of_succ_lt_succ hk) (by rwa [State.inRegions_hostWriteByte])

/-- A raced byte holds a draw that the write has taken. -/
theorem State.readByte_hostWriteMem_raced {B : List Byte} {k : Nat} (hk : k < B.length)
    (h : s.inRegions (a + k) = true) :
    ∃ n, s.draws ≤ n ∧ n < (s.hostWriteMem a B).draws ∧
      (s.hostWriteMem a B).readByte (a + k) = Config.freeByte n (a + k) := by
  induction B generalizing a s k with
  | nil => cases hk
  | cons b B ih =>
    cases k with
    | zero =>
      rw [Nat.add_zero] at h ⊢
      refine ⟨s.draws, Nat.le_refl _, ?_, by rw [State.readByte_hostWriteMem_first, h]; rfl⟩
      refine Nat.lt_of_lt_of_le ?_ ((s.hostWriteByte a b).draws_le_hostWriteMem (a + 1) B)
      rw [State.draws_hostWriteByte, h]
      exact Nat.lt_succ_self _
    | succ k =>
      rw [← Nat.add_assoc, Nat.add_right_comm] at h ⊢
      obtain ⟨n, hlow, hhigh, hread⟩ :=
        ih (s.hostWriteByte a b) (a + 1) (Nat.lt_of_succ_lt_succ hk) (by rwa [State.inRegions_hostWriteByte])
      exact ⟨n, ((s.draws_le_hostWriteMem a [b]).trans hlow), hhigh, hread⟩

theorem State.mem_races_hostWriteMem (B : List Byte) (x : Nat) :
    x ∈ (s.hostWriteMem a B).races ↔ x ∈ s.races ∨ (a ≤ x ∧ x < a + B.length ∧ s.inRegions x = true) := by
  induction B generalizing a s with
  | nil =>
    refine (or_iff_left ?_).symm
    rintro ⟨hlow, hhigh, -⟩
    rw [List.length_nil] at hhigh
    omega
  | cons b B ih =>
    rw [State.hostWriteMem, ih, State.mem_races_hostWriteByte, State.inRegions_hostWriteByte, List.length_cons,
      or_assoc]
    have hsplit : a ≤ x ∧ x < a + (B.length + 1) ↔ x = a ∨ (a + 1 ≤ x ∧ x < a + 1 + B.length) := by omega
    refine or_congr_right ?_
    rw [← and_assoc, ← and_assoc, hsplit, or_and_right]

end Sys2Proof.Machine
end

section
/-! PROOFS. The MEM window as the host sees it: reads and writes, and the bytes of a running command's regions (O21 and
the first clause of O22). -/

namespace Sys2Proof.Machine

variable {s : State} {a w : Nat} {rest : List Event}

/-- A read away from the output regions of a running command draws nothing. -/
theorem State.hostReadMem_away (h : ∀ k, k < w → s.inOutputs (a + k) = false) :
    s.hostReadMem a w = { s with readData := some (BitVec.ofNat 32 (leNat (s.readBytes a w))) } := by
  have hraced : ((List.range w).any fun k => s.inOutputs (a + k)) = false := by simpa using h
  have hbytes : (List.range w).map (fun k => s.hostByte (a + k)) = s.readBytes a w :=
    List.map_congr_left fun k hk => if_neg (by simp [h k (List.mem_range.mp hk)])
  simp only [State.hostReadMem, hraced, hbytes]
  rfl

/-- Settles O21: away from the regions a host read is a read of MEM bytes, and a host write a write of them. -/
theorem memWindowAccesses : Obligations.MemWindowAccesses := by
  intro s a w rest hw ha hin
  constructor
  · intro hs haway
    refine ⟨BitVec.ofNat 32 (leNat (s.readBytes a w)), ?_, ?_⟩
    · rw [step_window_read hs hw ha hin, State.hostReadMem_away (s := { s with agenda := rest }) haway]
      rfl
    · rw [toNat_dataWord (by rw [State.readBytes_length]; omega), littleEndian_eq_leNat]
      rfl
  · intro v hs haway
    have hplain := State.hostWriteMem_away { s with agenda := rest } a (B := leBytes w v.toNat)
      (by rwa [leBytes_length])
    refine ⟨_, (step_window_write hs hw ha hin).trans (congrArg _ hplain), State.writeBytes_only_mem _ a _, fun x => ?_⟩
    rw [State.readByte_writeBytes, leBytes_length]
    split
    · exact leBytes_word_getD (by omega) v
    · rfl

theorem State.draws_le_hostReadMem (s : State) (a w : Nat) : s.draws ≤ (s.hostReadMem a w).draws := by
  simp only [State.hostReadMem]
  split <;> omega

/-- What a read of the window returns, byte by byte (20_memory.md R60, R70). -/
theorem step_window_read_bytes (hs : s.agenda = .host (.read (s.params.base + 0x2000 + a) w) :: rest)
    (hw : w = 1 ∨ w = 2 ∨ w = 4) (ha : a % w = 0) (hin : a + w ≤ s.params.memSize) :
    ∃ (v : Word) (n : Nat), step s = .next { s with agenda := rest, readData := some v, draws := n } ∧ s.draws ≤ n ∧
      ∀ k, k < w → v.extractLsb' (8 * k) 8 = s.hostByte (a + k) := by
  refine ⟨BitVec.ofNat 32 (leNat ((List.range w).map fun k => s.hostByte (a + k))), _, step_window_read hs hw ha hin,
    State.draws_le_hostReadMem { s with agenda := rest } a w, fun k hk => ?_⟩
  rw [dataWord_extract_byte (by rw [List.length_map, List.length_range]; omega),
    List.getD_eq_getElem _ _ (by simpa using hk)]
  simp

/-- What a write to the window does, byte by byte (20_memory.md R60, R70). -/
theorem step_window_write_bytes {v : Word} (hs : s.agenda = .host (.write (s.params.base + 0x2000 + a) w v) :: rest)
    (hw : w = 1 ∨ w = 2 ∨ w = 4) (ha : a % w = 0) (hin : a + w ≤ s.params.memSize) :
    ∃ t, step s = .next t ∧
      t = { s with agenda := rest, mem := t.mem, draws := t.draws, pending := t.pending } ∧ t.fetch = s.fetch ∧
      (∀ x, x < a ∨ a + w ≤ x → t.readByte x = s.readByte x) ∧
      (∀ x, a ≤ x → x < a + w → s.inRegions x = false → t.readByte x = v.extractLsb' (8 * (x - a)) 8) ∧
      (∀ x, a ≤ x → x < a + w → s.inRegions x = true →
        ∃ n, s.draws ≤ n ∧ n < t.draws ∧ t.readByte x = Config.freeByte n x) ∧
      (∀ x, x ∈ t.races ↔ x ∈ s.races ∨ (a ≤ x ∧ x < a + w ∧ s.inRegions x = true)) := by
  have hlen : (leBytes w v.toNat).length = w := leBytes_length _ _
  refine ⟨_, step_window_write hs hw ha hin, State.hostWriteMem_frame _ a _, State.fetch_hostWriteMem _ a _,
    fun x hx => ?_, fun x hlow hhigh hreg => ?_, fun x hlow hhigh hreg => ?_, fun x => ?_⟩
  · exact State.readByte_hostWriteMem_outside _ a (hlen.symm ▸ hx)
  · obtain ⟨k, rfl⟩ := Nat.exists_eq_add_of_le hlow
    rw [State.readByte_hostWriteMem_away { s with agenda := rest } a (by omega) hreg, leBytes_word_getD (by omega),
      Nat.add_sub_cancel_left]
  · obtain ⟨k, rfl⟩ := Nat.exists_eq_add_of_le hlow
    exact State.readByte_hostWriteMem_raced { s with agenda := rest } a (by omega) hreg
  · rw [State.mem_races_hostWriteMem, hlen]
    rfl

end Sys2Proof.Machine
end

section
/-! PROOFS. Which MEM bytes a race leaves at a draw, and what completion and the registers leave of MEM
(20_memory.md R70). -/

namespace Sys2Proof.Machine

variable (s : State) (x : Nat)

theorem freeBytes_getD (n a k : Nat) {len : Nat} (hk : k < len) :
    (freeBytes n a len).getD k 0 = Config.freeByte n (a + k) := by
  rw [List.getD_eq_getElem _ _ (by rwa [freeBytes_length])]
  simp [freeBytes]

theorem Region.has_iff (r : Region) : r.has x = true ↔ r.addr ≤ x ∧ x < r.addr + r.len := by
  rw [Region.has, Bool.and_eq_true, decide_eq_true_eq, decide_eq_true_eq]

/-- A region that is cut at the end of MEM holds those of its bytes that exist. -/
theorem Region.has_clip_iff (p : Params) (r : Region) :
    (r.clip p).has x = true ↔ x < p.memSize ∧ r.has x = true := by
  rw [Region.has_iff, Region.has_iff]
  simp only [Region.clip]
  omega

/-- A region written with draws reads as them, and every other byte as before. -/
theorem State.readByte_writeFree (n : Nat) (r : Region) :
    (s.writeBytes r.addr (freeBytes n r.addr r.len)).readByte x =
      if r.has x then Config.freeByte n x else s.readByte x := by
  rw [State.readByte_writeBytes, freeBytes_length]
  refine ite_congr (propext (r.has_iff x).symm) (fun hx => ?_) fun _ => rfl
  rw [Region.has_iff] at hx
  rw [freeBytes_getD _ _ _ (by omega), Nat.add_sub_cancel' hx.1]

theorem State.readByte_scramble (rs : List Region) :
    (s.scramble rs).readByte x =
      if x < s.params.memSize ∧ rs.any (·.has x) = true then Config.freeByte s.draws x else s.readByte x := by
  induction rs generalizing s with
  | nil => simp [State.scramble]
  | cons r rs ih =>
    rw [State.scramble, ih, State.readByte_writeFree, State.writeBytes_params, State.writeBytes_draws]
    simp only [Region.has_clip_iff, List.any_cons, Bool.or_eq_true]
    by_cases hin : x < s.params.memSize ∧ r.has x = true
    · simp [hin]
    · simp [hin, and_or_left]

theorem State.readByte_scrambleBytes (as : List Nat) :
    (s.scrambleBytes as).readByte x = if x ∈ as then Config.freeByte s.draws x else s.readByte x := by
  induction as generalizing s with
  | nil => simp [State.scrambleBytes]
  | cons a as ih =>
    rw [State.scrambleBytes, ih, State.readByte_writeByte, State.writeByte_draws]
    by_cases hxa : x = a
    · subst hxa
      simp
    · simp [hxa]

/-- Both outcomes of a raced command leave a draw in the output bytes that exist and in the raced bytes. -/
theorem State.readByte_scrambleRaced (outs : List Region) :
    ((s.scramble outs).scrambleBytes s.races).readByte x =
      if (x < s.params.memSize ∧ outs.any (·.has x) = true) ∨ x ∈ s.races then Config.freeByte s.draws x
      else s.readByte x := by
  rw [State.readByte_scrambleBytes, State.readByte_scramble, State.scramble_draws]
  by_cases hx : x ∈ s.races <;> simp [hx]

theorem State.readByte_raceOutcome (i : Instr) :
    (s.raceOutcome i).readByte x =
      if (x < s.params.memSize ∧ (outputs i).any (·.has x) = true) ∨ x ∈ s.races then Config.freeByte s.draws x
      else s.readByte x := by
  rw [← State.readByte_scrambleRaced]
  exact State.readByte_congr (State.scrambleDest_mem _ _) (State.scrambleDest_memDraw _ _) x

/-- A raced command that fails its check: the race outcome of MEM, with the error. -/
theorem State.failCommand_raced (e : ErrCode) (outs : List Region) (h : s.races ≠ []) :
    s.failCommand e outs = ((s.scramble outs).scrambleBytes s.races).spend.completeErr e := by
  unfold State.failCommand
  split
  · next hr => exact absurd hr h
  · rfl

/-- The output bytes of a command that passed its check are bytes of MEM. -/
theorem lt_memSize_of_outputs {p : Params} {i : Instr} {x : Nat} (hc : check p i = none)
    (hx : (outputs i).any (·.has x) = true) : x < p.memSize := by
  obtain ⟨o, ho, hhas⟩ := List.any_eq_true.mp hx
  obtain ⟨-, -, -, haddr, -⟩ := (Laws.check_eq_none_iff p i).mp hc
  have hin : inRange p o.addr o.len :=
    (Laws.inRange_iff p o.addr o.len).mp
      (by simpa [-Laws.inRange_iff] using List.any_eq_false.mp haddr o (List.mem_append_right _ ho))
  rw [Region.has_iff] at hhas
  unfold Sys2Proof.inRange at hin
  omega

/-- What a raced command leaves in P and RESULT (20_memory.md R70). -/
theorem State.destFree_raceOutcome (i : Instr) : DestFree i s (s.raceOutcome i) := by
  have hresult : ((s.scramble (outputs i)).scrambleBytes s.races).result = s.result := by simp
  have hdraws : ((s.scramble (outputs i)).scrambleBytes s.races).draws = s.draws := by simp
  have hpreg (r : Nat) : ((s.scramble (outputs i)).scrambleBytes s.races).preg r = s.preg r :=
    State.preg_congr (by simp) (by simp) r
  unfold DestFree State.raceOutcome
  generalize (s.scramble (outputs i)).scrambleBytes s.races = u at *
  cases dest i with
  | nothing => exact ⟨hresult, hpreg⟩
  | preg d =>
    refine ⟨hresult, (State.preg_setPreg u _ _ _).trans (by rw [if_pos rfl, hdraws]), fun r hr => ?_⟩
    exact (State.preg_setPreg u _ _ _).trans (by rw [if_neg hr, hpreg])
  | allPregs => exact ⟨hresult, fun r => (u.preg_forgetPregs r).trans (by rw [hdraws])⟩
  | result => exact ⟨congrArg Config.freeResult hdraws, hpreg⟩

/-- A raced command completes with no error, and changes nothing but MEM, P and RESULT. -/
theorem State.raceOutcome_frame (i : Instr) :
    s.raceOutcome i = { s with
      pending := none, done := true, mem := (s.raceOutcome i).mem, pregs := (s.raceOutcome i).pregs
      pregDraw := (s.raceOutcome i).pregDraw, result := (s.raceOutcome i).result, draws := s.draws + 1 } := by
  unfold State.raceOutcome
  rw [State.scrambleBytes_only_mem, State.scramble_only_mem]
  cases dest i <;> rfl

/-- A raced command that fails its check changes nothing but MEM and STATUS. -/
theorem State.failCommand_raced_frame (e : ErrCode) (outs : List Region) (h : s.races ≠ []) :
    s.failCommand e outs = { s with
      pending := none, done := true, err := true, errcode := e.code, mem := (s.failCommand e outs).mem
      draws := s.draws + 1 } := by
  rw [s.failCommand_raced e outs h, State.scrambleBytes_only_mem, State.scramble_only_mem]
  rfl

theorem State.readByte_failCommand_raced (e : ErrCode) (outs : List Region) (h : s.races ≠ []) :
    (s.failCommand e outs).readByte x =
      if (x < s.params.memSize ∧ outs.any (·.has x) = true) ∨ x ∈ s.races then Config.freeByte s.draws x
      else s.readByte x := by
  rw [s.failCommand_raced e outs h, ← State.readByte_scrambleRaced]
  rfl

end Sys2Proof.Machine
end

section
/-! PROOFS. The error code of the argument check (60_exceptions.md R343) is the one that `expectedCode` writes out for
each command. -/

namespace Sys2Proof.Machine

variable (p : Params)

/-- The code of a check: that of its error, 0 where it passes (60_exceptions.md R341). -/
def checkCode (i : Instr) : Nat := ((check p i).map (·.code.toNat)).getD 0

/-- The codes of the five tests, in their order. -/
theorem checkCode_eq (i : Instr) :
    checkCode p i =
      if (operands i).any Operand.badArg then 2
      else if (operands i).any (Operand.badPreg p) then 3
      else if (operands i).any (Operand.badLen i) then 4
      else if (inputs i ++ outputs i).any (fun r => !r.inRange p) then 5
      else if outputsOverlap (inputs i) (outputs i) then 6 else 0 := by
  unfold checkCode check
  split_ifs <;> rfl

theorem not_inRange_iff (a n : Nat) : (Region.mk a n).inRange p = false ↔ ¬inRange p a n := by
  rw [← Laws.inRange_iff, Bool.not_eq_true]

/-- On the operands of each command the five tests are the conditions that `expectedCode` writes out. -/
theorem checkCode_eq_expectedCode (i : Instr) : checkCode p i = expectedCode p i := by
  rw [checkCode_eq]
  cases i <;> simp [inputs, outputs, operands, List.filterMap, expectedCode, pregCode, pregAddrCode, not_inRange_iff,
    Laws.overlaps_iff, -not_and, not_and_or, or_assoc]

/-- The error that a check gives where the code is not 0. -/
theorem check_of_expectedCode {p : Params} {i : Instr} (h : expectedCode p i ≠ 0) :
    ∃ e, check p i = some e ∧ e.code = BitVec.ofNat 4 (expectedCode p i) := by
  rw [← checkCode_eq_expectedCode, checkCode] at h ⊢
  cases hc : check p i with
  | none => simp [hc] at h
  | some e => exact ⟨e, rfl, by simp⟩

end Sys2Proof.Machine
end

section
/-! PROOFS. The effect of a command is ready exactly where its rejection loops have stopped (44_samplers.md R233). -/

namespace Sys2Proof.Machine

/-- A command whose effect is ready exactly where its loops have stopped within the windows looked at. -/
def CommandReady (i : Instr) : Prop :=
  ∃ effect, (∀ s, exec i s = runCommand i effect s) ∧ ∀ s : State, (effect s).isSome = loopsStopped s.windows i s

theorem pregToMem_isSome (n : Nat) (f : List Nat → List Byte) (takesAll : Bool) (src dst : Word) (s : State) :
    (pregToMem n f takesAll src dst s).isSome = true := by
  simp only [pregToMem]
  split <;> rfl

theorem pregUnary_isSome (f : List Nat → List Nat) (d a : Word) (s : State) : (pregUnary f d a s).isSome = true := by
  simp only [pregUnary]
  split <;> rfl

theorem pregBinary_isSome (f : List Nat → List Nat → List Nat) (d a b : Word) (s : State) :
    (pregBinary f d a b s).isSome = true := by
  simp only [pregBinary]
  split <;> rfl

/-- A command with no rejection loop, whose effect is a plain function of the state. -/
theorem ready_of_total {i : Instr} {f : State → State}
    (hexec : ∀ s, exec i s = runCommand i (fun s => some (f s)) s) (hloops : ∀ w s, loopsStopped w i s = true) :
    CommandReady i := ⟨_, hexec, fun s => (hloops s.windows s).symm⟩

theorem command_ready (i : Instr) : CommandReady i := by
  cases i
  case nop | keccakf | sha3_256 | sha3_512 | prf | xof | cbd2 | dec12 | decomp10 | decomp4 | frommsg =>
    exact ready_of_total (fun _ => rfl) fun _ _ => rfl
  case padd | psub | basemul => exact ⟨_, fun _ => rfl, pregBinary_isSome _ _ _ _⟩
  case ntt | intt => exact ⟨_, fun _ => rfl, pregUnary_isSome _ _ _⟩
  case enc12 | comp10 | comp4 | tomsg => exact ⟨_, fun _ => rfl, pregToMem_isSome _ _ _ _ _⟩
  case mulmod =>
    refine ⟨_, fun _ => rfl, fun s => ?_⟩
    split <;> rfl
  case samplentt | keygen =>
    refine ⟨_, fun _ => rfl, fun s => ?_⟩
    simp only [loopsStopped]
    split <;> simp [*]
  case encaps | decaps =>
    refine ⟨_, fun _ => rfl, fun s => ?_⟩
    simp only [loopsStopped]
    split <;> simp [*, apply_ite Option.isSome]

end Sys2Proof.Machine
end

section
/-! PROOFS. Races between the host and a running command (20_memory.md R70): the window's bytes, and the two ways in
which a raced command completes. -/

namespace Sys2Proof.Machine

theorem exec_raced {i : Instr} {s : State} (hc : check s.params i = none) (hr : s.races ≠ [])
    (hstop : loopsStopped s.windows i s = true) : exec i s = .next (s.raceOutcome i) := by
  obtain ⟨effect, hexec, hready⟩ := command_ready i
  obtain ⟨u, hu⟩ := Option.isSome_iff_exists.mp ((hready s).trans hstop)
  rw [hexec, runCommand_raced hc hr hu]

theorem exec_failed {i : Instr} {s : State} {e : ErrCode} (hc : check s.params i = some e) :
    exec i s = .next (s.failCommand e (outputs i)) := by
  obtain ⟨effect, hexec, -⟩ := command_ready i
  rw [hexec, runCommand_failed hc]

/-- Settles O22: host accesses are known byte by byte; a raced command ends in `State.raceOutcome`, or in
`State.failCommand` where it fails a check, and both leave draws in the output bytes and the raced bytes. -/
theorem racesGiveAny : Obligations.RacesGiveAny := by
  refine ⟨fun s a w rest hw ha hin => ⟨fun hs => step_window_read_bytes hs hw ha hin,
    fun v hs => step_window_write_bytes hs hw ha hin⟩, fun i s hwf hr hstop => ?_, fun s c i hf hd hcode hr => ?_⟩
  · have hc := (Laws.check_none_iff_wellFormed s.params i).mpr hwf
    refine ⟨_, exec_raced hc hr hstop, s.raceOutcome_frame i, fun x => ?_, s.destFree_raceOutcome i⟩
    have hinside : x < s.params.memSize ∧ (outputs i).any (·.has x) = true ↔ (outputs i).any (·.has x) = true :=
      and_iff_right_of_imp (lt_memSize_of_outputs hc)
    rw [s.readByte_raceOutcome x i]
    simp only [hinside]
  · obtain ⟨e, hc, he⟩ := check_of_expectedCode hcode
    refine ⟨_, (engineStep_command hf hd).trans (exec_failed hc), ?_, fun x => s.readByte_failCommand_raced x e _ hr⟩
    rw [← he]
    exact s.failCommand_raced_frame e _ hr

end Sys2Proof.Machine
end

section
/-! PROOFS. Every command's effect writes MEM only in its output regions and reads MEM only in its input regions
(20_memory.md R66): the effect is run beside itself, from a state that differs in MEM but not in the input regions. -/

namespace Sys2Proof.Machine

variable {i : Instr} {effect : State → Option State} {s s' u u' : State} {outs : List Region}

theorem any_has_append_iff (outs : List Region) (r : Region) (x : Nat) :
    (outs ++ [r]).any (·.has x) = true ↔ outs.any (·.has x) = true ∨ (r.addr ≤ x ∧ x < r.addr + r.len) := by
  rw [← Region.has_iff]
  simp

/-- What the two runs from `s` and from the state beside it have written so far: they agree outside MEM and in the
regions `outs`, and the run from `s` has left the other bytes as they were. -/
structure SameWrites (outs : List Region) (s u u' : State) : Prop where
  outsideMem : u'.outsideMem = u.outsideMem
  inside : ∀ x, outs.any (·.has x) = true → u'.readByte x = u.readByte x
  outside : ∀ x, ¬outs.any (·.has x) = true → u.readByte x = s.readByte x

theorem SameWrites.start (h : s'.outsideMem = s.outsideMem) : SameWrites [] s s s' where
  outsideMem := h
  inside _ hx := absurd hx (by simp)
  outside _ _ := rfl

/-- Both runs write the same bytes to one more region. -/
theorem SameWrites.writeBytes (h : SameWrites outs s u u') {a n : Nat} {B : List Byte} (hB : B.length = n) :
    SameWrites (outs ++ [⟨a, n⟩]) s (u.writeBytes a B) (u'.writeBytes a B) where
  outsideMem := by rw [State.outsideMem_writeBytes, State.outsideMem_writeBytes, h.outsideMem]
  inside x hx := by
    rw [State.readByte_writeBytes, State.readByte_writeBytes, hB]
    split
    · rfl
    · next hout => exact h.inside x (((any_has_append_iff outs _ x).mp hx).resolve_right hout)
  outside x hx := by
    rw [any_has_append_iff, not_or] at hx
    rw [State.readByte_writeBytes, hB, if_neg hx.2]
    exact h.outside x hx.1

/-- Both runs do the same outside MEM. -/
theorem SameWrites.map (h : SameWrites outs s u u') {f : State → State}
    (hf : ∀ v, (f v).outsideMem = f v.outsideMem) (hmem : ∀ v x, (f v).readByte x = v.readByte x) :
    SameWrites outs s (f u) (f u') where
  outsideMem := by rw [hf, hf, h.outsideMem]
  inside x hx := by rw [hmem, hmem, h.inside x hx]
  outside x hx := by rw [hmem, h.outside x hx]

theorem SameWrites.setPreg (h : SameWrites outs s u u') (r : Nat) (f : Poly) :
    SameWrites outs s (u.setPreg r f) (u'.setPreg r f) := h.map (f := State.setPreg r f) (fun _ => rfl) fun _ _ => rfl

theorem SameWrites.setResult (h : SameWrites outs s u u') (v : BitVec 12) :
    SameWrites outs s { u with result := v } { u' with result := v } :=
  h.map (f := fun w => { w with result := v }) (fun _ => rfl) fun _ _ => rfl

theorem SameWrites.spend (h : SameWrites outs s u u') : SameWrites outs s u.spend u'.spend :=
  h.map (fun _ => rfl) fun _ _ => rfl

theorem SameWrites.afterKem (h : SameWrites outs s u u') : SameWrites outs s u.afterKem u'.afterKem :=
  h.map (fun _ => rfl) fun _ _ => rfl

theorem SameWrites.completeOk (h : SameWrites outs s u u') : SameWrites outs s u.completeOk u'.completeOk :=
  h.map (fun _ => rfl) fun _ _ => rfl

/-- The second state differs from the first in MEM only, and not in the input regions of the command. -/
def AgreeOnInputs (i : Instr) (s s' : State) : Prop :=
  ∃ m, s' = { s with mem := m } ∧ ∀ r ∈ inputs i, ∀ x, r.has x = true → s'.readByte x = s.readByte x

theorem AgreeOnInputs.refl (i : Instr) (s : State) : AgreeOnInputs i s s := ⟨s.mem, rfl, fun _ _ _ _ => rfl⟩

theorem AgreeOnInputs.outsideMem (h : AgreeOnInputs i s s') : s'.outsideMem = s.outsideMem := by
  obtain ⟨m, rfl, -⟩ := h
  rfl

theorem AgreeOnInputs.readBytes (h : AgreeOnInputs i s s') {a : Word} {n : Nat} (ho : .inAt a n ∈ operands i) :
    s'.readBytes a.toNat n = s.readBytes a.toNat n := by
  obtain ⟨m, -, hagree⟩ := h
  refine State.readBytes_congr fun k hk => hagree ⟨a.toNat, n⟩ (List.mem_filterMap.mpr ⟨_, ho, rfl⟩) _ ?_
  exact (Region.has_iff _ _).mpr ⟨Nat.le_add_right _ _, Nat.add_lt_add_left hk _⟩

theorem AgreeOnInputs.preg (h : AgreeOnInputs i s s') (r : Nat) : s'.preg r = s.preg r := by
  obtain ⟨m, rfl, -⟩ := h
  rfl

theorem AgreeOnInputs.draws (h : AgreeOnInputs i s s') : s'.draws = s.draws := by
  obtain ⟨m, rfl, -⟩ := h
  rfl

theorem AgreeOnInputs.windows (h : AgreeOnInputs i s s') : s'.windows = s.windows := by
  obtain ⟨m, rfl, -⟩ := h
  rfl

theorem AgreeOnInputs.params (h : AgreeOnInputs i s s') : s'.params = s.params := by
  obtain ⟨m, rfl, -⟩ := h
  rfl

theorem AgreeOnInputs.races (h : AgreeOnInputs i s s') : s'.races = s.races := by
  obtain ⟨m, rfl, -⟩ := h
  rfl

theorem AgreeOnInputs.start (h : AgreeOnInputs i s s') : SameWrites [] s s s' := SameWrites.start h.outsideMem

/-- An effect that touches MEM only in the regions of the command (20_memory.md R66). -/
def EffectInRegions (i : Instr) (effect : State → Option State) : Prop :=
  ∀ ⦃s s'⦄, AgreeOnInputs i s s' → Option.Rel (SameWrites (outputs i) s) (effect s) (effect s')

/-- A command that touches MEM only in its regions, as its effect run in `runCommand`. -/
def CommandInRegions (i : Instr) : Prop :=
  ∃ effect, (∀ s, exec i s = runCommand i effect s) ∧ EffectInRegions i effect

/-! ### The effects that several commands share -/

/-- A command that writes one output region. -/
theorem writeBytes_inRegions {dst : Word} {n : Nat} {B : State → List Byte} (hout : outputs i = [⟨dst.toNat, n⟩])
    (hlen : ∀ s, (B s).length = n) (hB : ∀ ⦃s s'⦄, AgreeOnInputs i s s' → B s' = B s) :
    EffectInRegions i fun s => some (s.writeBytes dst.toNat (B s)) := fun s s' h => by
  simp only [hout, hB h]
  exact .some (h.start.writeBytes (hlen s))

/-- A command that writes one register. -/
theorem setPreg_inRegions {r : Nat} {f : State → Poly} (hout : outputs i = [])
    (hf : ∀ ⦃s s'⦄, AgreeOnInputs i s s' → f s' = f s) : EffectInRegions i fun s => some (s.setPreg r (f s)) :=
  fun s s' h => by
    simp only [hout, hf h]
    exact .some (h.start.setPreg r (f s))

theorem pregToMem_inRegions {n : Nat} {f : List Nat → List Byte} {takesAll : Bool} {src dst : Word}
    (hout : outputs i = [⟨dst.toNat, n⟩]) (hf : ∀ F, (f F).length = n) :
    EffectInRegions i (pregToMem n f takesAll src dst) := fun s s' h => by
  simp only [pregToMem, State.freeMem, hout, h.preg, h.draws]
  split
  · exact .some (h.start.writeBytes (hf _))
  · exact .some (h.start.writeBytes (freeBytes_length _ _ _)).spend

theorem pregUnary_inRegions {f : List Nat → List Nat} {d a : Word} (hout : outputs i = []) :
    EffectInRegions i (pregUnary f d a) := fun s s' h => by
  simp only [pregUnary, State.freePreg, hout, h.preg, h.draws]
  split
  · exact .some (h.start.setPreg _ _)
  · exact .some (h.start.setPreg _ _).spend

theorem pregBinary_inRegions {f : List Nat → List Nat → List Nat} {d a b : Word} (hout : outputs i = []) :
    EffectInRegions i (pregBinary f d a b) := fun s s' h => by
  simp only [pregBinary, State.freePreg, hout, h.preg, h.draws]
  split
  · exact .some (h.start.setPreg _ _)
  · exact .some (h.start.setPreg _ _).spend

/-! ### The commands with an effect of their own -/

theorem nop_inRegions : CommandInRegions .nop := ⟨_, fun _ => rfl, fun _ _ h => .some h.start⟩

theorem mulmod_inRegions (a b : Word) : CommandInRegions (.mulmod a b) := by
  refine ⟨_, fun _ => rfl, fun s s' h => ?_⟩
  split
  · exact .some (h.start.setResult _)
  · simp only [h.draws]
    exact .some (h.start.map (f := fun v => { v with result := _, draws := _ }) (fun _ => rfl) fun _ _ => rfl)

theorem samplentt_inRegions (dst rho idx : Word) : CommandInRegions (.samplentt dst rho idx) := by
  refine ⟨_, fun _ => rfl, fun s s' h => ?_⟩
  simp only [h.windows, h.readBytes (a := rho) (n := 32) (by simp [operands])]
  split
  · exact .some (h.start.setPreg _ _)
  · exact .none

theorem keygen_inRegions (d z pk sk : Word) : CommandInRegions (.keygen d z pk sk) := by
  refine ⟨_, fun _ => rfl, fun s s' h => ?_⟩
  simp only [h.windows, h.readBytes (a := d) (n := 32) (by simp [operands]),
    h.readBytes (a := z) (n := 32) (by simp [operands])]
  split
  · exact .none
  · next PK SK hkeys =>
    obtain ⟨hPK, hSK⟩ := keyGen_lengths hkeys
    rw [State.readBytes_length] at hSK
    exact .some ((h.start.writeBytes hPK).writeBytes hSK).afterKem

theorem encaps_inRegions (pk m ct key : Word) : CommandInRegions (.encaps pk m ct key) := by
  refine ⟨_, fun _ => rfl, fun s s' h => ?_⟩
  simp only [h.windows, h.draws, h.readBytes (a := pk) (n := 1184) (by simp [operands]),
    h.readBytes (a := m) (n := 32) (by simp [operands])]
  split
  · exact .none
  · next CT KK hres =>
    obtain ⟨hCT, hKK⟩ := encapsulate_lengths hres
    split
    · exact .some ((h.start.writeBytes hCT).writeBytes hKK).afterKem
    · exact .some ((h.start.writeBytes (freeBytes_length _ _ _)).writeBytes (freeBytes_length _ _ _)).afterKem

theorem decaps_inRegions (sk ct key : Word) : CommandInRegions (.decaps sk ct key) := by
  refine ⟨_, fun _ => rfl, fun s s' h => ?_⟩
  simp only [h.windows, h.draws, h.params, h.readBytes (a := sk) (n := 2400) (by simp [operands]),
    h.readBytes (a := ct) (n := 1088) (by simp [operands])]
  split
  · exact .none
  · next KK hres =>
    split
    · exact .some (h.start.writeBytes (decapsulate_length hres)).afterKem
    · exact .some (h.start.writeBytes (freeBytes_length _ _ _)).afterKem

/-! ### Every command -/

theorem command_inRegions (i : Instr) : CommandInRegions i := by
  cases i
  case nop => exact nop_inRegions
  case keccakf =>
    exact ⟨_, fun _ => rfl, writeBytes_inRegions rfl (by simp) fun s s' h => by rw [h.readBytes (by simp [operands])]⟩
  case sha3_256 =>
    exact ⟨_, fun _ => rfl, writeBytes_inRegions rfl (by simp) fun s s' h => by rw [h.readBytes (by simp [operands])]⟩
  case sha3_512 =>
    exact ⟨_, fun _ => rfl, writeBytes_inRegions rfl (by simp) fun s s' h => by rw [h.readBytes (by simp [operands])]⟩
  case prf =>
    exact ⟨_, fun _ => rfl, writeBytes_inRegions rfl (by simp) fun s s' h => by rw [h.readBytes (by simp [operands])]⟩
  case xof =>
    exact ⟨_, fun _ => rfl, writeBytes_inRegions rfl (by simp) fun s s' h => by rw [h.readBytes (by simp [operands])]⟩
  case mulmod => exact mulmod_inRegions _ _
  case padd | psub | basemul => exact ⟨_, fun _ => rfl, pregBinary_inRegions rfl⟩
  case ntt | intt => exact ⟨_, fun _ => rfl, pregUnary_inRegions rfl⟩
  case cbd2 | dec12 | decomp10 | decomp4 | frommsg =>
    exact ⟨_, fun _ => rfl, setPreg_inRegions rfl fun s s' h => by rw [h.readBytes (by simp [operands])]⟩
  case samplentt => exact samplentt_inRegions _ _ _
  case enc12 => exact ⟨_, fun _ => rfl, pregToMem_inRegions rfl fun _ => byteEncode_length 12 _⟩
  case comp10 => exact ⟨_, fun _ => rfl, pregToMem_inRegions rfl fun _ => byteEncode_length 10 _⟩
  case comp4 => exact ⟨_, fun _ => rfl, pregToMem_inRegions rfl fun _ => byteEncode_length 4 _⟩
  case tomsg => exact ⟨_, fun _ => rfl, pregToMem_inRegions rfl fun _ => byteEncode_length 1 _⟩
  case keygen => exact keygen_inRegions _ _ _ _
  case encaps => exact encaps_inRegions _ _ _ _
  case decaps => exact decaps_inRegions _ _ _

end Sys2Proof.Machine
end

section
/-! PROOFS. A command touches MEM only in its regions (20_memory.md R66): its turn, with no race, beside the turn from a
state that differs in MEM but not in the input regions (O23). -/

namespace Sys2Proof.Machine

variable {i : Instr} {s s' t t' : State}

/-- The two turns of an accepted command: both are still running, or both complete with the same writes. -/
theorem exec_beside (h : AgreeOnInputs i s s') (hc : check s.params i = none) (hr : s.races = [])
    (ht : exec i s = .next t) (ht' : exec i s' = .next t') :
    (t = s.notYet ∧ t' = s'.notYet) ∨ SameWrites (outputs i) s t t' := by
  obtain ⟨effect, hexec, heffect⟩ := command_inRegions i
  have hc' : check s'.params i = none := by rwa [h.params]
  have hr' : s'.races = [] := by rwa [h.races]
  rw [hexec] at ht ht'
  have hboth := heffect h
  generalize hu : effect s = o, hu' : effect s' = o' at hboth
  cases hboth with
  | none =>
    rw [runCommand_running hc hu] at ht
    rw [runCommand_running hc' hu'] at ht'
    cases ht
    cases ht'
    exact .inl ⟨rfl, rfl⟩
  | some hsame =>
    rw [runCommand_completed hc hr hu] at ht
    rw [runCommand_completed hc' hr' hu'] at ht'
    cases ht
    cases ht'
    exact .inr hsame.completeOk

/-- Settles O23: a failed command writes STATUS only; an accepted one is run beside itself, from the same state for the
bytes it leaves as they were, and from one with another MEM for what it reads. -/
theorem commandsTouchOnlyTheirRegions : Obligations.CommandsTouchOnlyTheirRegions := by
  refine ⟨fun i s t x hr ht hx => ?_, fun i s t t' m hr hwf hagree ht ht' => ?_⟩
  · cases hc : check s.params i with
    | some e =>
      rw [exec_failed hc, State.failCommand_unraced s e _ hr] at ht
      cases ht
      rfl
    | none =>
      have hwf : i.wellFormed s.params := (Laws.check_none_iff_wellFormed s.params i).mp hc
      obtain ⟨rfl, -⟩ | hsame := exec_beside (.refl i s) hc hr ht ht
      · rfl
      · refine hsame.outside x ?_
        simpa using hx.resolve_left (not_not_intro hwf)
  · have hc := (Laws.check_none_iff_wellFormed s.params i).mpr hwf
    obtain ⟨rfl, rfl⟩ | hsame := exec_beside ⟨m, rfl, hagree⟩ hc hr ht ht'
    · refine ⟨rfl, fun hbusy hidle => ?_⟩
      simp only [State.busy, State.notYet_pending, Option.isSome_map] at hbusy hidle
      rw [hbusy] at hidle
      cases hidle
    · exact ⟨hsame.outsideMem.symm, fun _ _ o ho x hx => (hsame.inside x (List.any_eq_true.mpr ⟨o, ho, hx⟩)).symm⟩

end Sys2Proof.Machine
end

section
/-! PROOFS. The decoder against the opcode map and against the encoder (30_encoding.md R92, R94 to R96, R99), with the
byte image of log 15. -/

namespace Sys2Proof.Machine

variable {c : Command}

/-! ### The opcode map -/

theorem decodeCommand_of_row {row : Nat × (Args → Instr)} (hrow : row ∈ opcodeMap) (hw : c.word.toNat = row.1) :
    decodeCommand c = .ok (row.2 c.args) := by
  unfold decodeCommand
  rw [hw]
  fin_cases hrow <;> rfl

theorem decodeCommand_of_no_row (h : ∀ row ∈ opcodeMap, c.word.toNat ≠ row.1) :
    decodeCommand c = .error .illegalCmd := by
  unfold decodeCommand
  split
  case h_26 => rfl
  all_goals next hw => simp [opcodeMap, hw] at h

/-- No row of the opcode map has a reserved word (30_encoding.md R96). -/
theorem not_reservedWord_of_row : ∀ row ∈ opcodeMap, ¬reservedWord row.1 := by
  unfold reservedWord
  decide

theorem decodeCommand_reserved (h : reservedWord c.word.toNat) : decodeCommand c = .error .illegalCmd :=
  decodeCommand_of_no_row fun row hrow hw => not_reservedWord_of_row row hrow (hw ▸ h)

/-! ### The encoder and the byte image -/

theorem decodeCommand_encode (i : Instr) : decodeCommand (encode i) = .ok i := by
  cases i <;> rfl

theorem leWord_leBytes_append (v : Word) (rest : List Byte) : leWord (leBytes 4 v.toNat ++ rest) = v := by
  rw [leWord, List.take_left' (leBytes_length 4 _), leNat_leBytes]
  refine BitVec.eq_of_toNat_eq ?_
  rw [BitVec.toNat_ofNat]
  omega

theorem drop_leBytes_append {n k : Nat} (h : n ≤ k) (v : Nat) (rest : List Byte) :
    (leBytes n v ++ rest).drop k = rest.drop (k - n) := by
  rw [List.drop_append, List.drop_of_length_le (by rwa [leBytes_length]), leBytes_length, List.nil_append]

theorem ofBytes_toBytes_append (c : Command) (rest : List Byte) :
    Command.ofBytes (c.toBytes ++ rest) = .ok (c, rest) := by
  have hlen : ¬(c.toBytes ++ rest).length < 20 := by
    simp only [Command.toBytes, List.length_append, leBytes_length]
    omega
  rw [Command.ofBytes, if_neg hlen]
  simp [Command.toBytes, drop_leBytes_append, leWord_leBytes_append]

/-- Settles O2: the byte image gives the encoded command back, and every constructor decodes from its encoding. -/
theorem encodeThenDecodeIsIdentity : Obligations.EncodeThenDecodeIsIdentity := by
  intro i rest
  simp only [decodeBytes, encodeBytes, ofBytes_toBytes_append, decodeCommand_encode]

/-- Settles O3: the arms of `decodeCommand` are the rows of the opcode map. -/
theorem opcodeMapDecodesEveryWord : Obligations.OpcodeMapDecodesEveryWord := fun _ =>
  ⟨fun _ hrow hw => decodeCommand_of_row hrow hw, decodeCommand_of_no_row⟩

/-- Settles O1: each word is decoded from its byte image. -/
theorem specWordsDecode : Obligations.SpecWordsDecode := by
  unfold Obligations.SpecWordsDecode
  decide

/-! ### Illegal words -/

/-- A pending illegal word has no regions, so no race is noted against it (20_memory.md R70). -/
theorem State.Inv.races_of_illegal {s : State} {e : DecodeError} (hs : s.Inv) (hf : s.fetch = some c)
    (hd : decodeCommand c = .error e) : s.races = [] := by
  refine List.eq_nil_iff_forall_not_mem.mpr fun a ha => ?_
  have hin := (hs.racesInside a ha).1
  simp [State.inRegions, State.inOutputs, State.pendingRegions, hf, hd] at hin

/-- Settles O4: a reserved word matches no row, and its completion finds no race. -/
theorem illegalWordsCompleteWithCodeOne : Obligations.IllegalWordsCompleteWithCodeOne := by
  intro s c hs hf hres
  have hd := decodeCommand_reserved hres
  rw [engineStep_illegal hf hd, State.failCommand_unraced s .illegalCmd [] (hs.races_of_illegal hf hd)]
  rfl

end Sys2Proof.Machine
end

section
/-! PROOFS. What a command may change besides completing (10_state.md R33): MEM, P, RESULT and the draws; so the host's
events stay. -/

namespace Sys2Proof.Machine

variable {i : Instr} {effect : State → Option State} {s t u : State}

/-- The second state differs from the first at most in what a command's effect writes: MEM, P, RESULT and the draws. -/
def State.OnlyOutputs (s t : State) : Prop :=
  t = { s with
    mem := t.mem, pregs := t.pregs, pregDraw := t.pregDraw, result := t.result, draws := t.draws }

theorem State.OnlyOutputs.trans (h : s.OnlyOutputs t) (h' : t.OnlyOutputs u) : s.OnlyOutputs u := by
  unfold State.OnlyOutputs at *
  rw [h', h]

theorem State.OnlyOutputs.refl (s : State) : s.OnlyOutputs s := rfl

theorem State.onlyOutputs_setPreg (s : State) (r : Nat) (f : Poly) : s.OnlyOutputs (s.setPreg r f) := rfl

theorem State.onlyOutputs_writeBytes (s : State) (a : Nat) (B : List Byte) : s.OnlyOutputs (s.writeBytes a B) := by
  induction B generalizing a s with
  | nil => rfl
  | cons b B ih => exact State.OnlyOutputs.trans (t := s.writeByte a b) rfl (ih _ _)

theorem State.OnlyOutputs.agenda (h : s.OnlyOutputs t) : t.agenda = s.agenda := by
  rw [State.OnlyOutputs] at h
  rw [h]

/-- An effect that writes MEM, P, RESULT and the draws only. -/
def WritesOutputsOnly (effect : State → Option State) : Prop := ∀ ⦃s u : State⦄, effect s = some u → s.OnlyOutputs u

/-- A command whose effect, run in `runCommand`, writes MEM, P, RESULT and the draws only. -/
def CommandWritesOutputsOnly (i : Instr) : Prop :=
  ∃ effect, (∀ s, exec i s = runCommand i effect s) ∧ WritesOutputsOnly effect

theorem writesOutputsOnly_of_total {f : State → State} (hf : ∀ s : State, s.OnlyOutputs (f s)) :
    WritesOutputsOnly fun s => some (f s) := by
  rintro s _ ⟨⟩
  exact hf s

theorem pregToMem_writesOutputsOnly (n : Nat) (f : List Nat → List Byte) (takesAll : Bool) (src dst : Word) :
    WritesOutputsOnly (pregToMem n f takesAll src dst) := by
  intro s u hu
  simp only [pregToMem] at hu
  split at hu <;> cases hu
  · exact s.onlyOutputs_writeBytes _ _
  · exact (s.onlyOutputs_writeBytes _ _).trans rfl

theorem pregUnary_writesOutputsOnly (f : List Nat → List Nat) (d a : Word) : WritesOutputsOnly (pregUnary f d a) := by
  intro s u hu
  simp only [pregUnary] at hu
  split at hu <;> cases hu <;> rfl

theorem pregBinary_writesOutputsOnly (f : List Nat → List Nat → List Nat) (d a b : Word) :
    WritesOutputsOnly (pregBinary f d a b) := by
  intro s u hu
  simp only [pregBinary] at hu
  split at hu <;> cases hu <;> rfl

theorem State.onlyOutputs_afterKem (s : State) : s.OnlyOutputs s.afterKem := rfl

/-- One output and the lost P registers, as DECAPS leaves them. -/
theorem State.onlyOutputs_kem (s : State) (a : Nat) (A : List Byte) : s.OnlyOutputs (s.writeBytes a A).afterKem :=
  (s.onlyOutputs_writeBytes a A).trans (State.onlyOutputs_afterKem _)

/-- Two outputs and the lost P registers, as KEYGEN and ENCAPS leave them. -/
theorem State.onlyOutputs_kemTwo (s : State) (a b : Nat) (A B : List Byte) :
    s.OnlyOutputs ((s.writeBytes a A).writeBytes b B).afterKem :=
  (s.onlyOutputs_writeBytes a A).trans ((s.writeBytes a A).onlyOutputs_kem b B)

theorem command_writesOutputsOnly (i : Instr) : CommandWritesOutputsOnly i := by
  cases i
  case nop => exact ⟨_, fun _ => rfl, writesOutputsOnly_of_total State.OnlyOutputs.refl⟩
  case keccakf | sha3_256 | sha3_512 | prf | xof =>
    exact ⟨_, fun _ => rfl, writesOutputsOnly_of_total fun s => s.onlyOutputs_writeBytes _ _⟩
  case cbd2 | dec12 | decomp10 | decomp4 | frommsg =>
    exact ⟨_, fun _ => rfl, writesOutputsOnly_of_total fun s => s.onlyOutputs_setPreg _ _⟩
  case padd | psub | basemul => exact ⟨_, fun _ => rfl, pregBinary_writesOutputsOnly _ _ _ _⟩
  case ntt | intt => exact ⟨_, fun _ => rfl, pregUnary_writesOutputsOnly _ _ _⟩
  case enc12 | comp10 | comp4 | tomsg => exact ⟨_, fun _ => rfl, pregToMem_writesOutputsOnly _ _ _ _ _⟩
  case mulmod | samplentt =>
    refine ⟨_, fun _ => rfl, fun s u hu => ?_⟩
    split at hu <;> cases hu <;> rfl
  case keygen =>
    refine ⟨_, fun _ => rfl, fun s u hu => ?_⟩
    split at hu
    · cases hu
    · exact Option.some.inj hu ▸ s.onlyOutputs_kemTwo _ _ _ _
  case encaps =>
    refine ⟨_, fun _ => rfl, fun s u hu => ?_⟩
    split at hu
    · cases hu
    · split at hu <;> exact Option.some.inj hu ▸ s.onlyOutputs_kemTwo _ _ _ _
  case decaps =>
    refine ⟨_, fun _ => rfl, fun s u hu => ?_⟩
    split at hu
    · cases hu
    · split at hu <;> exact Option.some.inj hu ▸ s.onlyOutputs_kem _ _

@[simp] theorem State.failCommand_agenda (s : State) (e : ErrCode) (outs : List Region) :
    (s.failCommand e outs).agenda = s.agenda := by
  unfold State.failCommand
  split <;> simp

@[simp] theorem State.raceOutcome_agenda (s : State) (i : Instr) : (s.raceOutcome i).agenda = s.agenda := by
  simp [State.raceOutcome]

/-- A command's turn leaves the events to come as they are. -/
theorem exec_agenda (h : exec i s = .next t) : t.agenda = s.agenda := by
  obtain ⟨effect, hexec, heffect⟩ := command_writesOutputsOnly i
  rw [hexec] at h
  obtain ⟨e, -, rfl⟩ | ⟨-, -, rfl⟩ | ⟨-, -, -, rfl⟩ | ⟨-, -, u, hu, rfl⟩ := runCommand_cases h
  · exact s.failCommand_agenda e _
  · exact s.notYet_agenda
  · exact s.raceOutcome_agenda i
  · exact u.completeOk_agenda.trans (heffect hu).agenda

end Sys2Proof.Machine
end

section
/-! PROOFS. The host pseudo-operations `issue` and `wait` as steps (30_encoding.md R99, 10_state.md R32, R33). -/

namespace Sys2Proof.Machine

variable {s t : State} {i : Instr} {rest : List Event}

theorem core_run_succ {k : Nat} (h : step s = .next t) : core.run (k + 1) s = core.run k t := by
  have hstep : core.step s = .next t := h
  simp only [Host.Core.run, hstep]

theorem core_run_one (s : State) : core.run 1 s = step s := by
  have hstep : core.step s = step s := rfl
  cases h : step s <;> simp only [Host.Core.run, hstep, h] <;> rfl

/-- The state that `issue` leaves: the operands stand in ARG0 to ARG3, and the command is pending with their snapshot. -/
def State.issued (i : Instr) (rest : List Event) (s : State) : State :=
  { s with
    args := (encode i).args, done := false, err := false, errcode := 0, agenda := rest
    pending := some { cmd := encode i, races := [], effort := 0 } }

/-- The host on its way through `issue`: what it has written to the ARG registers, and the events it has left. -/
def State.issuing (a : Args) (es : List Event) (s : State) : State := { s with args := a, agenda := es }

/-- Each of the four ARG writes stores its operand. -/
theorem step_issuing_arg (s : State) (a : Args) (es : List Event) (v : Word) :
    step (s.issuing a (regWrite s.params 0x010 v :: es)) = .next (s.issuing { a with a0 := v } es) ∧
    step (s.issuing a (regWrite s.params 0x014 v :: es)) = .next (s.issuing { a with a1 := v } es) ∧
    step (s.issuing a (regWrite s.params 0x018 v :: es)) = .next (s.issuing { a with a2 := v } es) ∧
    step (s.issuing a (regWrite s.params 0x01C v :: es)) = .next (s.issuing { a with a3 := v } es) := by
  obtain ⟨hstore, -⟩ := argRegistersAreStorage
  simp only [forall_and] at hstore
  obtain ⟨store0, store1, store2, store3⟩ := hstore
  exact ⟨store0 _ v es rfl, store1 _ v es rfl, store2 _ v es rfl, store3 _ v es rfl⟩

/-- The CMD write issues while idle, with the ARG registers as its snapshot. -/
theorem step_issuing_cmd (hidle : s.busy = false) :
    step (s.issuing (encode i).args (regWrite s.params 0x008 (encode i).word :: rest)) = .next (s.issued i rest) := by
  have hcmd := (cmdWrites (s.issuing (encode i).args (regWrite s.params 0x008 (encode i).word :: rest)) rest).1
  exact (hcmd _ rfl).2 hidle

/-- The five register writes of `issue`. -/
theorem core_run_issue (hp : s.pending = none) (hs : s.agenda = issueEvents s.params i ++ rest) (k : Nat) :
    core.run (k + 5) s = core.run k (s.issued i rest) := by
  have hidle : s.busy = false := by rw [State.busy, hp]; rfl
  have hstart : s = s.issuing s.args (issueEvents s.params i ++ rest) := by rw [State.issuing, ← hs]
  have hargs := step_issuing_arg s
  simp only [forall_and] at hargs
  obtain ⟨step_arg0, step_arg1, step_arg2, step_arg3⟩ := hargs
  calc core.run (k + 5) s = core.run (k + 5) (s.issuing s.args (issueEvents s.params i ++ rest)) := congrArg _ hstart
    _ = core.run k (s.issued i rest) := by
      simp only [issueEvents, List.cons_append, List.nil_append]
      rw [core_run_succ (step_arg0 _ _ _), core_run_succ (step_arg1 _ _ _), core_run_succ (step_arg2 _ _ _),
        core_run_succ (step_arg3 _ _ _)]
      exact core_run_succ (step_issuing_cmd hidle)

theorem step_engine_issued (hs : s.agenda = .engine :: rest) (hf : s.fetch = some (encode i)) :
    step s = exec i { s with agenda := rest } := by
  rw [step_of_cons hs]
  exact engineStep_command hf (decodeCommand_encode i)

theorem State.pollDone_eq (s : State) :
    s.pollDone = { s with
      readData := some s.statusWord
      agenda := if s.done then s.agenda else .engine :: .wait :: s.agenda } := by
  have hread : s.readReg 0x004 = s.statusWord := rfl
  simp only [State.pollDone, hread, State.statusWord_done]

theorem step_wait (hs : s.agenda = waitEvents ++ rest) :
    step s = .next { s with
      readData := some s.statusWord
      agenda := if s.done then rest else .engine :: (waitEvents ++ rest) } := by
  rw [step_of_cons hs]
  exact congrArg Host.Outcome.next (State.pollDone_eq _)

/-- STATUS of a command just issued: BUSY, and OVERRUN as before. -/
theorem State.statusWord_issued (s : State) (i : Instr) (rest : List Event) :
    (s.issued i rest).statusWord = if s.overrun then 0x9 else 0x1 := by
  cases h : s.overrun <;> simp [State.statusWord, State.issued, State.busy, bitAt, h]

/-- Settles O6: five register writes issue the command, `wait` finds DONE = 0 and gives the engine its turn, and after
the turn, which leaves the events to come as they are, `wait` finds DONE = 1. -/
theorem issueThenEngineTurnRunsTheCommand : Obligations.IssueThenEngineTurnRunsTheCommand := by
  refine ⟨fun s i rest hp hs => ?_, fun s rest hs => ⟨fun hd => ?_, fun hd => ?_⟩, fun s t i rest hp hs hexec hd => ?_⟩
  · rw [core_run_issue hp hs 1, core_run_one]
    exact step_engine_issued rfl rfl
  · rw [step_wait hs, hd]
    rfl
  · rw [step_wait hs, hd]
    rfl
  · have hpoll : step (s.issued i (waitEvents ++ rest)) = _ := step_wait rfl
    rw [State.statusWord_issued] at hpoll
    have hturn : t.agenda = waitEvents ++ rest := exec_agenda hexec
    rw [core_run_issue hp hs 3, core_run_succ hpoll, core_run_succ ((step_engine_issued rfl rfl).trans hexec),
      core_run_one, step_wait hturn, hd]
    rfl

end Sys2Proof.Machine
end

section
/-! PROOFS. Commands whose effect is one write to MEM (10_state.md R33): completion, the bytes written, and the frame;
so the five Keccak commands (O26 to O28). -/

namespace Sys2Proof.Machine

/-- An accepted, unraced command whose effect is one write to MEM completes, and changes nothing but those bytes. -/
theorem exec_writeBytes_completes {i : Instr} {a : Nat} {B : State → List Byte} {s : State}
    (hexec : exec i s = runCommand i (fun s => some (s.writeBytes a (B s))) s) (hw : i.wellFormed s.params)
    (hr : s.races = []) :
    ∃ t, exec i s = .next t ∧ t = { s with pending := none, done := true, mem := t.mem } ∧
      MemBecomes s t a (B s) := by
  refine ⟨(s.writeBytes a (B s)).completeOk, ?_, ?_, s.readByte_writeBytes a (B s)⟩
  · exact hexec.trans (runCommand_completed ((Laws.check_none_iff_wellFormed _ _).2 hw) hr rfl)
  · rw [s.writeBytes_only_mem]
    rfl

/-- Byte `k` of a word of any width, by its value. -/
theorem ofNat_div_pow_eq_extract_byte {w : Nat} (v : BitVec w) (k : Nat) :
    BitVec.ofNat 8 (v.toNat / 256 ^ k) = v.extractLsb' (8 * k) 8 := by
  refine BitVec.eq_of_toNat_eq ?_
  rw [BitVec.toNat_ofNat, BitVec.extractLsb'_toNat, Nat.shiftRight_eq_div_pow, Nat.pow_mul]

theorem nonceByte_eq (v : Word) : nonceByte v = BitVec.ofNat 8 v.toNat := by
  simpa [nonceByte] using (ofNat_div_pow_eq_extract_byte v 0).symm

theorem idxFirst_eq (v : Word) : idxFirst v = BitVec.ofNat 8 (v.toNat % 256) :=
  (nonceByte_eq v).trans (BitVec.eq_of_toNat_eq (by simp))

theorem idxSecond_eq (v : Word) : idxSecond v = BitVec.ofNat 8 (v.toNat / 256) := by
  simpa [idxSecond] using (ofNat_div_pow_eq_extract_byte v 1).symm

/-- Settles O26: the effect is one write of `keccakFBytes`. -/
theorem keccakfCompletes : Obligations.KeccakfCompletes := by
  intro s src dst hw hr
  obtain ⟨t, ht, hframe, hmem⟩ :=
    exec_writeBytes_completes (B := fun s => keccakFBytes (s.readBytes src.toNat 200)) rfl hw hr
  exact ⟨t, ht, hframe, hmem, keccakFBytes_length _⟩

/-- Settles O27: the effects are one write of `hashH` and of `hashG`. -/
theorem sha3CommandsComplete : Obligations.Sha3CommandsComplete := by
  refine ⟨fun s src len dst hw hr => ?_, fun s src len dst hw hr => ?_⟩
  · obtain ⟨t, ht, hframe, hmem⟩ :=
      exec_writeBytes_completes (B := fun s => hashH (s.readBytes src.toNat len.toNat)) rfl hw hr
    exact ⟨t, ht, hframe, hmem, hashH_length _⟩
  · obtain ⟨t, ht, hframe, hmem⟩ :=
      exec_writeBytes_completes (B := fun s => hashG (s.readBytes src.toNat len.toNat)) rfl hw hr
    exact ⟨t, ht, hframe, hmem, hashG_length _⟩

/-- Settles O28: the effects are one write of `prfBytes` and of `xofBytes`, with the bytes of the operand. -/
theorem prfAndXofComplete : Obligations.PrfAndXofComplete := by
  refine ⟨fun s seed nonce dst hw hr => ?_, fun s rhoAt idx dst len hw hr => ?_⟩
  · obtain ⟨t, ht, hframe, hmem⟩ :=
      exec_writeBytes_completes (B := fun s => prfBytes (s.readBytes seed.toNat 32) (nonceByte nonce)) rfl hw hr
    rw [← nonceByte_eq]
    exact ⟨t, ht, hframe, hmem, prfBytes_length _ _⟩
  · obtain ⟨t, ht, hframe, hmem⟩ := exec_writeBytes_completes
      (B := fun s => xofBytes (s.readBytes rhoAt.toNat 32) (idxFirst idx) (idxSecond idx) len.toNat) rfl hw hr
    rw [← idxFirst_eq, ← idxSecond_eq]
    exact ⟨t, ht, hframe, hmem, xofBytes_length _ _ _ _⟩

end Sys2Proof.Machine
end

section
/-! PROOFS. The Keccak state lane by lane: the step mappings (41_keccak_sponge.md R121 to R126, O48) and the byte
order of the lanes (R127). -/

namespace Sys2Proof.Machine

theorem getD_map_range {α : Type} (f : Nat → α) (d : α) {n k : Nat} (hk : k < n) :
    ((List.range n).map f).getD k d = f k := by
  simp [List.getD_eq_getElem?_getD, hk]

/-! ### Lanes and the step mappings -/

theorem lane_mod_left (A : Lanes) (x y : Nat) : lane A (x % 5) y = lane A x y := by
  rw [lane, lane, Nat.mod_mod]

theorem columnParity_mod (A : Lanes) (x : Nat) : columnParity A (x % 5) = columnParity A x := by
  simp only [columnParity, lane_mod_left]

/-- A state given by a function on lanes holds its values. -/
theorem lane_lanesOf (f : Nat → Nat → Lane) (x y : Nat) : lane (lanesOf f) x y = f (x % 5) (y % 5) := by
  have hx : x % 5 < 5 := Nat.mod_lt _ (by decide)
  have hy : y % 5 < 5 := Nat.mod_lt _ (by decide)
  rw [lane, lanesOf, getD_map_range _ _ (by omega), Nat.add_mul_mod_self_left, Nat.add_mul_div_left _ _ (by decide),
    Nat.mod_eq_of_lt hx, Nat.div_eq_of_lt hx, Nat.zero_add]

variable {x y : Nat}

theorem lane_theta (A : Lanes) (hx : x < 5) (hy : y < 5) :
    lane (theta A) x y = lane A x y ^^^ (columnParity A (x + 4) ^^^ rotl64 (columnParity A (x + 1)) 1) := by
  have hmod (k : Nat) : k % 5 < 5 := Nat.mod_lt _ (by decide)
  simp only [theta, lane_lanesOf, Nat.mod_eq_of_lt hx, Nat.mod_eq_of_lt hy, getD_map_range _ _ hx,
    getD_map_range _ _ (hmod _), columnParity_mod]

theorem rotOffset_lt (hx : x < 5) (hy : y < 5) : rotOffset x y < 64 := by
  have hall : ∀ x < 5, ∀ y < 5, rotOffset x y < 64 := by decide
  exact hall x hx y hy

theorem lane_rho (A : Lanes) (hx : x < 5) (hy : y < 5) :
    lane (rho A) x y = (lane A x y).rotateLeft (rotOffset x y) := by
  rw [rho, lane_lanesOf, Nat.mod_eq_of_lt hx, Nat.mod_eq_of_lt hy, rotl64, Nat.mod_eq_of_lt (rotOffset_lt hx hy)]

/-- The lane (x, y) moves to (y, 2x + 3y). -/
theorem lane_piStep (A : Lanes) (hy : y < 5) : lane (piStep A) y (2 * x + 3 * y) = lane A x y := by
  have hsource : (y + 3 * ((2 * x + 3 * y) % 5)) % 5 = x % 5 := by omega
  rw [piStep, lane_lanesOf, Nat.mod_eq_of_lt hy, ← lane_mod_left, hsource, lane_mod_left]

theorem lane_chi (A : Lanes) (hx : x < 5) (hy : y < 5) :
    lane (chi A) x y = lane A x y ^^^ (~~~lane A (x + 1) y &&& lane A (x + 2) y) := by
  rw [chi, lane_lanesOf, Nat.mod_eq_of_lt hx, Nat.mod_eq_of_lt hy]

theorem lane_iota (A : Lanes) (rc : Lane) (hx : x < 5) (hy : y < 5) :
    lane (iota A rc) x y = if x = 0 ∧ y = 0 then lane A 0 0 ^^^ rc else lane A x y := by
  rw [iota, lane_lanesOf, Nat.mod_eq_of_lt hx, Nat.mod_eq_of_lt hy]
  split
  · next h => rw [h.1, h.2]
  · rfl

/-- Keccak-f runs over the round constants by their index. -/
theorem keccakF_eq_foldl_range (A : Lanes) :
    keccakF A = (List.range 24).foldl (fun A ir => keccakRound A (keccakRc.getD ir 0)) A := by
  have hrc : keccakRc = (List.range 24).map fun ir => keccakRc.getD ir 0 := rfl
  rw [keccakF]
  conv_lhs => rw [hrc, List.foldl_map]

/-- Settles O48: each step mapping reads its lane from `lanesOf`. -/
theorem keccakStepMappings : Obligations.KeccakStepMappings :=
  ⟨fun A _ _ hx hy => ⟨lane_theta A hx hy, lane_rho A hx hy, lane_piStep A hy, lane_chi A hx hy⟩,
    fun A rc _ _ hx hy => lane_iota A rc hx hy, keccakF_eq_foldl_range⟩

/-! ### The byte order of the lanes -/

/-- The eight bytes of word `w` of a 200-byte string. -/
theorem word_eq_map_range {S : List Byte} {w : Nat} (hw : 8 * w + 8 ≤ S.length) :
    (S.drop (8 * w)).take 8 = (List.range 8).map fun b => S.getD (8 * w + b) 0 := by
  refine List.ext_getElem (by simp; omega) fun b hb _ => ?_
  rw [List.length_take] at hb
  have hlt : 8 * w + b < S.length := by omega
  simp [List.getD_eq_getElem?_getD, hlt]

/-- Lane (x, y) of a 200-byte string is its little-endian word x + 5y. -/
theorem lane_lanesOfBytes {S : List Byte} (hS : S.length = 200) (hx : x < 5) (hy : y < 5) :
    (lane (lanesOfBytes S) x y).toNat = littleEndian 8 (fun b => S.getD (8 * (x + 5 * y) + b) 0) := by
  rw [lane, Nat.mod_eq_of_lt hx, Nat.mod_eq_of_lt hy, lanesOfBytes, getD_map_range _ _ (by omega),
    word_eq_map_range (by omega), BitVec.toNat_ofNat, Nat.mod_eq_of_lt ((leNat_lt _).trans_eq (by simp)),
    littleEndian_eq_leNat]

/-- Byte `b` of word `w` of a state's bytes. -/
theorem bytesOfLanes_getD (A : Lanes) (w : Nat) {b : Nat} (hb : b < 8) :
    (bytesOfLanes A).getD (8 * w + b) 0 = (A.getD w 0).extractLsb' (8 * b) 8 := by
  induction A generalizing w with
  | nil => simp [bytesOfLanes]
  | cons v A ih =>
    have hcons : bytesOfLanes (v :: A) = leBytes 8 v.toNat ++ bytesOfLanes A := rfl
    rw [hcons]
    cases w with
    | zero =>
      rw [List.getD_append _ _ _ _ (by simpa using hb), Nat.mul_zero, Nat.zero_add, leBytes_getD hb,
        ofNat_div_pow_eq_extract_byte, List.getD_cons_zero]
    | succ w =>
      rw [List.getD_append_right _ _ _ _ (by rw [leBytes_length]; omega), leBytes_length, List.getD_cons_succ, ← ih w]
      congr 1
      omega

end Sys2Proof.Machine
end

section
/-! PROOFS. The sponge block by block (41_keccak_sponge.md R128): the padded message, the states it is absorbed into, and
the bytes squeezed from them. -/

namespace Sys2Proof.Machine

/-! ### Byte strings by their bytes, 0 past the end -/

theorem ext_getD {l l' : List Byte} {n : Nat} (hl : l.length = n) (hl' : l'.length = n)
    (h : ∀ k, k < n → l.getD k 0 = l'.getD k 0) : l = l' := by
  refine List.ext_getElem (hl.trans hl'.symm) fun k hk hk' => ?_
  have hbyte := h k (hl ▸ hk)
  rwa [List.getD_eq_getElem _ _ hk, List.getD_eq_getElem _ _ hk'] at hbyte

theorem getD_drop (l : List Byte) (a k : Nat) : (l.drop a).getD k 0 = l.getD (a + k) 0 := by
  simp [List.getD_eq_getElem?_getD]

theorem getD_take (l : List Byte) (n k : Nat) : (l.take n).getD k 0 = if k < n then l.getD k 0 else 0 := by
  simp only [List.getD_eq_getElem?_getD, List.getElem?_take]
  split <;> rfl

theorem getD_append_zeros (l : List Byte) (n k : Nat) : (l ++ List.replicate n 0).getD k 0 = l.getD k 0 := by
  by_cases hk : k < l.length
  · exact List.getD_append _ _ _ _ hk
  · rw [List.getD_append_right _ _ _ _ (by omega), List.getD_eq_default l _ (by omega)]
    rw [List.getD_eq_getElem?_getD, List.getElem?_getD_replicate_default_eq]

theorem getD_modify_xor {l : List Byte} {i : Nat} (hi : i < l.length) (v : Byte) (k : Nat) :
    (l.modify i (· ^^^ v)).getD k 0 = l.getD k 0 ^^^ if k = i then v else 0 := by
  simp only [List.getD_eq_getElem?_getD, List.getElem?_modify]
  by_cases hk : k = i
  · subst hk
    simp [hi]
  · simp [hk, Ne.symm hk]

/-- Xor-ing a block into the front of a string, byte by byte. -/
theorem getD_xorInto {S B : List Byte} (h : B.length ≤ S.length) (k : Nat) :
    (xorInto S B).getD k 0 = S.getD k 0 ^^^ B.getD k 0 := by
  have hzip : (List.zipWith (· ^^^ ·) S B).length = B.length := by simp [h]
  rw [xorInto]
  by_cases hk : k < B.length
  · rw [List.getD_append _ _ _ _ (by rw [hzip]; exact hk)]
    have hkS : k < S.length := by omega
    simp [List.getD_eq_getElem?_getD, hk, hkS]
  · rw [List.getD_append_right _ _ _ _ (by rw [hzip]; omega), hzip, getD_drop, List.getD_eq_default B _ (by omega),
      Nat.add_sub_of_le (by omega)]
    exact BitVec.xor_zero.symm

/-! ### The padded message -/

variable {r : Nat}

theorem length_lt_blocks (M : List Byte) (hr : 0 < r) : M.length < (M.length / r + 1) * r :=
  (Nat.lt_mul_div_succ M.length hr).trans_eq (Nat.mul_comm _ _)

theorem padded_length (M : List Byte) (ds : Byte) (hr : 0 < r) :
    (padded M r ds).length = (M.length / r + 1) * r := by
  have := length_lt_blocks M hr
  simp only [padded, List.length_modify, List.length_append, List.length_replicate]
  omega

/-- The padded message: the message, with the domain byte after it, and with 0x80 xor-ed into the last byte. -/
theorem padded_getD (M : List Byte) (ds : Byte) (hr : 0 < r) (k : Nat) :
    (padded M r ds).getD k 0 = (M.getD k 0 ^^^ if k = M.length then ds else 0) ^^^
      if k = (M.length / r + 1) * r - 1 then 0x80 else 0 := by
  have hlen := length_lt_blocks M hr
  rw [padded, getD_modify_xor, getD_modify_xor, getD_append_zeros]
  · simp only [List.length_append, List.length_replicate]
    omega
  · simp only [List.length_modify, List.length_append, List.length_replicate]
    omega

/-! ### Absorbing -/

@[simp] theorem spongeState_length (P : List Byte) (r n : Nat) : (spongeState P r n).length = 200 := by
  cases n with
  | zero => exact List.length_replicate
  | succ n => exact keccakFBytes_length _

/-- One more state is one more block absorbed. -/
theorem spongeState_succ (P : List Byte) (hr : r ≤ 200) (n : Nat) :
    spongeState P r (n + 1) = keccakFBytes (xorInto (spongeState P r n) ((P.drop (n * r)).take r)) := by
  have hblock : ((P.drop (n * r)).take r).length ≤ (spongeState P r n).length := by
    rw [List.length_take, spongeState_length]
    omega
  rw [spongeState]
  refine congrArg keccakFBytes (ext_getD (n := 200) (by simp) ?_ fun k hk => ?_)
  · rw [xorInto_length _ _ hblock, spongeState_length]
  · rw [getD_map_range _ _ hk, getD_xorInto hblock, getD_take, getD_drop]

/-- With the blocks used up, one more state is one more permutation. -/
theorem spongeState_succ_of_length_le {P : List Byte} {n : Nat} (hr : r ≤ 200) (h : P.length ≤ n * r) :
    spongeState P r (n + 1) = keccakFBytes (spongeState P r n) := by
  rw [spongeState_succ P hr, List.drop_of_length_le h]
  simp [xorInto]

theorem absorb_spongeState (P : List Byte) (hr : r ≤ 200) (n m : Nat) :
    absorb r n (P.drop (m * r)) (spongeState P r m) = spongeState P r (m + n) := by
  induction n generalizing m with
  | zero => rfl
  | succ n ih =>
    rw [absorb, ← spongeState_succ P hr, List.drop_drop, ← Nat.succ_mul, ih]
    congr 1
    omega

theorem absorbed_eq_spongeState (M : List Byte) (ds : Byte) (hr : r ≤ 200) :
    absorbed M r ds = spongeState (padded M r ds) r (M.length / r + 1) := by
  simpa [absorbed, spongeState] using absorb_spongeState (padded M r ds) hr (M.length / r + 1) 0

/-! ### Squeezing -/

/-- Every `r` bytes squeezed come from the next state. -/
theorem squeeze_getD {P : List Byte} (hr : 0 < r) (hr' : r ≤ 200) {n m need k : Nat} (hm : P.length ≤ m * r)
    (hn : need ≤ r * n) (hk : k < need) :
    (squeeze r n need (spongeState P r m)).getD k 0 = (spongeState P r (m + k / r)).getD (k % r) 0 := by
  induction n generalizing m need k with
  | zero => omega
  | succ n ih =>
    have hfirst (h : k < r) : (spongeState P r (m + k / r)).getD (k % r) 0 = (spongeState P r m).getD k 0 := by
      rw [Nat.div_eq_of_lt h, Nat.mod_eq_of_lt h, Nat.add_zero]
    rw [squeeze]
    split
    · rw [getD_take, if_pos hk, hfirst (by omega)]
    · have hhead : ((spongeState P r m).take r).length = r := by simp [hr']
      by_cases hkr : k < r
      · rw [List.getD_append _ _ _ _ (by rwa [hhead]), getD_take, if_pos hkr, hfirst hkr]
      · rw [Nat.mul_succ] at hn
        rw [List.getD_append_right _ _ _ _ (by rw [hhead]; omega), hhead, ← spongeState_succ_of_length_le hr' hm,
          ih (by rw [Nat.succ_mul]; omega) (by omega) (by omega), Nat.mod_eq_sub_mod (by omega : r ≤ k),
          Nat.div_eq_sub_div hr (by omega : r ≤ k)]
        congr 2
        omega

/-- Byte `k` of a sponge's output, whatever the length asked for. -/
theorem sponge_getD (M : List Byte) (ds : Byte) {L k : Nat} (hr : 0 < r) (hr' : r ≤ 200) (hk : k < L) :
    (sponge M r ds L).getD k 0 =
      (spongeState (padded M r ds) r (M.length / r + 1 + k / r)).getD (k % r) 0 := by
  rw [sponge, absorbed_eq_spongeState M ds hr']
  exact squeeze_getD hr hr' (padded_length M ds hr).le (Nat.lt_mul_div_succ L hr).le hk

/-- A shorter output is the front of a longer one. -/
theorem sponge_eq_take (M : List Byte) (ds : Byte) {L L' : Nat} (hr : 0 < r) (hr' : r ≤ 200) (hL : L ≤ L') :
    sponge M r ds L = (sponge M r ds L').take L := by
  refine ext_getD (sponge_length M r ds L hr hr') ?_ fun k hk => ?_
  · rw [List.length_take, sponge_length M r ds L' hr hr', Nat.min_eq_left hL]
  · rw [getD_take, if_pos hk, sponge_getD M ds hr hr' hk, sponge_getD M ds hr hr' (by omega)]

/-- One permutation gives G of a message that fits into one block. -/
theorem hashG_of_length_le {M : List Byte} (h : M.length ≤ 71) :
    hashG M = (keccakFBytes (padded M 72 0x06 ++ List.replicate 128 0)).take 64 := by
  have hlen : (padded M 72 0x06).length = 72 := by
    rw [padded_length M 0x06 (by decide)]
    omega
  have hle : (padded M 72 0x06).length ≤ (List.replicate 200 (0 : Byte)).length := by
    rw [hlen, List.length_replicate]
    decide
  have hfront : xorInto (List.replicate 200 0) (padded M 72 0x06) = padded M 72 0x06 ++ List.replicate 128 0 := by
    refine ext_getD (n := 200) ?_ ?_ fun k hk => ?_
    · rw [xorInto_length _ _ hle, List.length_replicate]
    · rw [List.length_append, hlen, List.length_replicate]
    · rw [getD_xorInto hle, getD_append_zeros, List.getD_replicate _ hk]
      exact BitVec.zero_xor
  rw [hashG, sponge_short M 72 0x06 64 (by omega) (by decide), fastKeccakBytes_eq, List.take_of_length_le hlen.le,
    hfront]

end Sys2Proof.Machine
end

section
/-! PROOFS. The sponge and the functions built on it (41_keccak_sponge.md R127 to R133; O49, O50). -/

namespace Sys2Proof.Machine

/-- Where the bytes of the padded message stand: the pad bytes on two places, or both on the last one. -/
theorem padded_layout (M : List Byte) (r : Nat) (ds : Byte) (hr : 1 < r) :
    let P := padded M r ds
    let n := M.length / r + 1
    P.length = n * r ∧
    (∀ k, k < M.length → P.getD k 0 = M.getD k 0) ∧
    (M.length + 1 < n * r → P.getD M.length 0 = ds ∧ P.getD (n * r - 1) 0 = 0x80 ∧
      ∀ k, M.length < k → k + 1 < n * r → P.getD k 0 = 0) ∧
    (M.length + 1 = n * r → P.getD M.length 0 = ds ^^^ 0x80) := by
  have hr0 : 0 < r := by omega
  have hlen := length_lt_blocks M hr0
  have hpast {k : Nat} (h : M.length ≤ k) : M.getD k 0 = 0 := List.getD_eq_default _ _ h
  refine ⟨padded_length M ds hr0, fun k hk => ?_, fun h => ⟨?_, ?_, fun k hk hk' => ?_⟩, fun h => ?_⟩ <;>
    rw [padded_getD M ds hr0]
  · rw [if_neg (by omega), if_neg (by omega)]
    simp
  · rw [if_pos rfl, if_neg (by omega), hpast le_rfl]
    simp
  · rw [if_neg (by omega), if_pos rfl, hpast (by omega)]
    simp
  · rw [if_neg (by omega), if_neg (by omega), hpast hk.le]
    simp
  · rw [if_pos rfl, if_pos (by omega), hpast le_rfl]
    simp

theorem xofBytes_eq_sponge (rhoSeed : List Byte) (b32 b33 : Byte) (L : Nat) :
    xofBytes rhoSeed b32 b33 L = sponge (rhoSeed ++ [b32] ++ [b33]) 168 0x1F L := by
  rw [xofBytes, List.append_assoc]
  rfl

/-- Settles O49: the padding by its bytes, the sponge by its states, and the byte order of the lanes. -/
theorem spongePadding : Obligations.SpongePadding := by
  refine ⟨padded_layout, fun M => hashG_of_length_le, fun M r ds L hrate => ?_,
    fun S x y hS hx hy => lane_lanesOfBytes hS hx hy, fun A hA => ⟨?_, fun x y b hx hy hb => ?_⟩, fun _ => rfl,
    fun _ => ⟨rfl, rfl, rfl, rfl⟩, fun seed N b32 b33 L => ⟨rfl, xofBytes_eq_sponge seed b32 b33 L⟩⟩
  · have hr : 0 < r ∧ r ≤ 200 := by omega
    exact ⟨sponge_length M r ds L hr.1 hr.2, fun k hk => sponge_getD M ds hr.1 hr.2 hk⟩
  · rw [bytesOfLanes_length, hA]
  · rw [bytesOfLanes_getD A _ hb, lane, Nat.mod_eq_of_lt hx, Nat.mod_eq_of_lt hy]

/-- Settles O50: the bytes of a sponge's output do not depend on the length asked for. -/
theorem xofOutputIsAStream : Obligations.XofOutputIsAStream := fun rhoSeed b32 b33 L _ =>
  ⟨xofBytes_eq_sponge rhoSeed b32 b33 L, sponge_eq_take _ 0x1F (by decide) (by decide)⟩

end Sys2Proof.Machine
end

section
/-! PROOFS. Arithmetic modulo q (42_modarith.md R170, R172, R175): the residues by their values, the Barrett realisation
(O46), and the coefficient-wise operations over them. -/

namespace Sys2Proof.Machine

theorem mulMod_cast (a b : Int) : (mulMod a b : Int) = a * b % 3329 :=
  Int.toNat_of_nonneg (Int.emod_nonneg _ (by decide))

theorem subQ_cast (a b : Nat) : (subQ a b : Int) = ((a : Int) - b) % 3329 :=
  Int.toNat_of_nonneg (Int.emod_nonneg _ (by decide))

/-- 20159 · 3329 = 2^26 + 447, so on the products of two operands in contract the quotient estimate is off by at most
one, which the two corrections of R172 make good. -/
theorem barrett_eq_emod {x : Int} (hlo : -(3328 * 3328) ≤ x) (hhi : x ≤ 3328 * 3328) : barrett x = x % 3329 := by
  have hr : -3329 ≤ x - x * 20159 / 2 ^ 26 * 3329 ∧ x - x * 20159 / 2 ^ 26 * 3329 < 2 * 3329 := by omega
  simp only [barrett]
  generalize x * 20159 / 2 ^ 26 = k at hr ⊢
  split <;> split <;> omega

/-- Settles O46: each residue by its value, and the realisation of R172 by the size of its error. -/
theorem modularArithmetic : Obligations.ModularArithmetic :=
  ⟨fun a b => ⟨mulMod_cast a b, mulMod_lt a b⟩, rfl,
    fun a b _ _ => ⟨rfl, subQ_cast a b, addQ_lt a b, subQ_lt a b⟩, fun _ => barrett_eq_emod⟩

/-! ### Coefficient by coefficient -/

theorem getD_zipWith (op : Nat → Nat → Nat) {A B : List Nat} {c : Nat} (hA : c < A.length) (hB : c < B.length) :
    (List.zipWith op A B).getD c 0 = op (A.getD c 0) (B.getD c 0) := by
  have hzip : c < (List.zipWith op A B).length := by
    rw [List.length_zipWith]
    omega
  rw [List.getD_eq_getElem _ _ hzip, List.getD_eq_getElem _ _ hA, List.getD_eq_getElem _ _ hB, List.getElem_zipWith]

theorem forall_mem_zipWith {op : Nat → Nat → Nat} {p : Nat → Prop} (hop : ∀ x y, p (op x y)) (A B : List Nat) :
    ∀ z ∈ List.zipWith op A B, p z := by
  intro z hz
  rw [← List.map_uncurry_zip_eq_zipWith] at hz
  obtain ⟨⟨x, y⟩, -, rfl⟩ := List.mem_map.mp hz
  exact hop x y

end Sys2Proof.Machine
end

section
/-! PROOFS. Commands whose effect is one write to a polynomial register (10_state.md R33, R34): completion, the register
written, and the frame. -/

namespace Sys2Proof.Machine

variable {i : Instr} {effect : State → Option State} {s u : State}

/-- An accepted, unraced command completes with its effect. -/
theorem exec_completed (hexec : exec i s = runCommand i effect s) (hw : i.wellFormed s.params) (hr : s.races = [])
    (he : effect s = some u) : exec i s = .next u.completeOk :=
  hexec.trans (runCommand_completed ((Laws.check_none_iff_wellFormed _ _).2 hw) hr he)

theorem exec_setPreg_completes {d : Word} {f : List Nat} (hexec : exec i s = runCommand i effect s)
    (hw : i.wellFormed s.params) (hr : s.races = [])
    (he : effect s = some (s.setPreg d.toNat (Poly.ofCoeffs f))) (hlen : f.length = 256) (hlt : ∀ x ∈ f, x < 4096) :
    ∃ t, exec i s = .next t ∧ t = { s with pending := none, done := true, pregs := t.pregs } ∧
      PregBecomes s t d f := by
  have hpreg := s.preg_setPreg d.toNat (Poly.ofCoeffs f)
  refine ⟨_, exec_completed hexec hw hr he, rfl, ?_, fun r hne => (hpreg r).trans (if_neg hne)⟩
  exact (congrArg Poly.coeffs ((hpreg _).trans (if_pos rfl))).trans (Poly.coeffs_ofCoeffs hlen hlt)

theorem exec_freePreg_completes {d : Word} (hexec : exec i s = runCommand i effect s) (hw : i.wellFormed s.params)
    (hr : s.races = []) (he : effect s = some (s.freePreg d.toNat)) :
    ∃ t, exec i s = .next t ∧
      t = { s with pending := none, done := true, pregs := t.pregs, draws := s.draws + 1 } ∧ PregFree s t d := by
  have hpreg := s.preg_setPreg d.toNat (freePoly s.draws d.toNat)
  exact ⟨_, exec_completed hexec hw hr he, rfl, (hpreg _).trans (if_pos rfl), fun r hne => (hpreg r).trans (if_neg hne)⟩

/-! ### Register operations in contract and outside it -/

theorem pregUnary_of_not_canonical (f : List Nat → List Nat) (d : Word) {a : Word}
    (ha : canonical (s.preg a.toNat).coeffs = false) : pregUnary f d a s = some (s.freePreg d.toNat) := by
  simp [pregUnary, ha]

theorem pregBinary_of_canonical (f : List Nat → List Nat → List Nat) (d : Word) {a b : Word}
    (ha : canonical (s.preg a.toNat).coeffs = true) (hb : canonical (s.preg b.toNat).coeffs = true) :
    pregBinary f d a b s =
      some (s.setPreg d.toNat (Poly.ofCoeffs (f (s.preg a.toNat).coeffs (s.preg b.toNat).coeffs))) := by
  simp [pregBinary, ha, hb]

theorem pregBinary_of_not_canonical (f : List Nat → List Nat → List Nat) (d : Word) {a b : Word}
    (h : canonical (s.preg a.toNat).coeffs = false ∨ canonical (s.preg b.toNat).coeffs = false) :
    pregBinary f d a b s = some (s.freePreg d.toNat) := by
  obtain ha | hb := h
  · simp [pregBinary, ha]
  · simp [pregBinary, hb]

/-- Settles O33: outside the contract the effect of all five commands is one draw for the destination. -/
theorem outOfContractRegistersGiveAny : Obligations.OutOfContractRegistersGiveAny := by
  refine ⟨fun s d a b hd ha hb hr hcells i hi => ?_, fun s d a hd ha hr hcells i hi => ?_⟩
  · have heffect (f : List Nat → List Nat → List Nat) := pregBinary_of_not_canonical f d hcells
    obtain rfl | rfl | rfl := hi <;> exact exec_freePreg_completes rfl ⟨hd, ha, hb⟩ hr (heffect _)
  · have heffect (f : List Nat → List Nat) := pregUnary_of_not_canonical f d hcells
    obtain rfl | rfl := hi <;> exact exec_freePreg_completes rfl ⟨hd, ha⟩ hr (heffect _)

end Sys2Proof.Machine
end

section
/-! PROOFS. MULMOD, PADD and PSUB (42_modarith.md R171, R173, R174; O29, O30). -/

namespace Sys2Proof.Machine

/-! ### MULMOD -/

theorem inMulRange_iff (a : Int) : inMulRange a = true ↔ -3328 ≤ a ∧ a ≤ 3328 := by
  simp [inMulRange]

theorem mulMod_toNat_ofNat (a b : Int) : (BitVec.ofNat 12 (mulMod a b)).toNat = mulMod a b := by
  have hlt : mulMod a b < 3329 := mulMod_lt a b
  rw [BitVec.toNat_ofNat, Nat.mod_eq_of_lt (by omega)]

section

variable {s : State} {a b : Word}

theorem exec_mulmod_of_inMulRange (hr : s.races = [])
    (h : (inMulRange (signedArg a) && inMulRange (signedArg b)) = true) :
    exec (.mulmod a b) s =
      .next { s with result := BitVec.ofNat 12 (mulMod (signedArg a) (signedArg b)) }.completeOk := by
  rw [exec, execMulmod]
  exact runCommand_completed ((Laws.check_none_iff_wellFormed _ _).2 trivial) hr (if_pos h)

theorem exec_mulmod_of_not_inMulRange (hr : s.races = [])
    (h : ¬(inMulRange (signedArg a) && inMulRange (signedArg b)) = true) :
    exec (.mulmod a b) s = .next { s with result := Config.freeResult s.draws, draws := s.draws + 1 }.completeOk := by
  rw [exec, execMulmod]
  exact runCommand_completed ((Laws.check_none_iff_wellFormed _ _).2 trivial) hr (if_neg h)

end

/-- Settles O29, by the two cases of the operand contract. -/
theorem mulmodCompletes : Obligations.MulmodCompletes := by
  intro s a b hr
  have hrange : (inMulRange (signedArg a) && inMulRange (signedArg b)) = true ↔
      -3328 ≤ a.toInt ∧ a.toInt ≤ 3328 ∧ -3328 ≤ b.toInt ∧ b.toInt ≤ 3328 := by
    rw [Bool.and_eq_true, inMulRange_iff, inMulRange_iff, and_assoc]
    rfl
  rw [← hrange]
  by_cases h : (inMulRange (signedArg a) && inMulRange (signedArg b)) = true
  · refine ⟨_, exec_mulmod_of_inMulRange hr h, rfl, fun _ => ?_, fun hout => absurd h hout⟩
    exact (congrArg Nat.cast (mulMod_toNat_ofNat _ _)).trans (mulMod_cast _ _)
  · exact ⟨_, exec_mulmod_of_not_inMulRange hr h, rfl, fun hin => absurd hin h, fun _ => rfl⟩

/-! ### PADD and PSUB -/

/-- A command that combines two canonical registers coefficient by coefficient, by an operation with values below q. -/
theorem exec_zipWith_completes {i : Instr} {op : Nat → Nat → Nat} {s : State} {d a b : Word}
    (hexec : exec i s = runCommand i (pregBinary (List.zipWith op) d a b) s) (hop : ∀ x y, op x y < q)
    (hw : i.wellFormed s.params) (hr : s.races = []) (ha : canonical (s.preg a.toNat).coeffs = true)
    (hb : canonical (s.preg b.toNat).coeffs = true) :
    ∃ t, exec i s = .next t ∧ t = { s with pending := none, done := true, pregs := t.pregs } ∧
      (∀ r, r ≠ d.toNat → t.preg r = s.preg r) ∧
      ∀ c, c < 256 → (t.preg d.toNat).coeffs.getD c 0 =
        op ((s.preg a.toNat).coeffs.getD c 0) ((s.preg b.toNat).coeffs.getD c 0) := by
  have hcell : ∀ x y, op x y < 4096 := fun x y => (hop x y).trans (by decide)
  obtain ⟨t, ht, hframe, hcoeffs, hothers⟩ := exec_setPreg_completes hexec hw hr (pregBinary_of_canonical _ d ha hb)
    (by simp) (forall_mem_zipWith hcell _ _)
  refine ⟨t, ht, hframe, hothers, fun c hc => ?_⟩
  rw [hcoeffs, getD_zipWith] <;> rwa [Poly.coeffs_length]

/-- Settles O30: both effects combine the sources coefficient by coefficient, by `addQ` and by `subQ`. -/
theorem paddAndPsubComplete : Obligations.PaddAndPsubComplete := by
  intro s d a b hd ha hb hr hA hB
  refine ⟨exec_zipWith_completes rfl addQ_lt ⟨hd, ha, hb⟩ hr hA hB, ?_⟩
  obtain ⟨t, ht, hframe, hothers, hcells⟩ :=
    exec_zipWith_completes (i := .psub d a b) rfl subQ_lt ⟨hd, ha, hb⟩ hr hA hB
  refine ⟨t, ht, hframe, hothers, fun c hc => ?_⟩
  rw [hcells c hc, subQ_cast]

end Sys2Proof.Machine
end

section
/-! PROOFS. The constant tables against their generators (43_ntt.md R191, R192, 41_keccak_sponge.md R122, R125; O47), and
what the transforms use of ZETAS and GAMMAS. Each is a finite check over the indexes of its table. -/

namespace Sys2Proof.Machine

theorem gammas_length : gammas.length = 128 := by decide +kernel

theorem zetas_eq_pow : ∀ i < 128, zetas.getD i 0 = 17 ^ brv7 i % 3329 := by decide +kernel

theorem gammas_eq_pow : ∀ i < 128, gammas.getD i 0 = 17 ^ (2 * brv7 i + 1) % 3329 := by decide +kernel

theorem gammas_paired : ∀ m < 64, gammas.getD (2 * m + 1) 0 = 3329 - gammas.getD (2 * m) 0 ∧
    gammas.getD (2 * m) 0 = zetas.getD (64 + m) 0 := by decide

theorem rotOffset_of_rotWalk : ∀ e ∈ rotWalk 24 0 1 0, rotOffset e.1 e.2.1 = e.2.2 := by decide

theorem keccakRc_eq_lfsr : ∀ ir < 24, ∀ n < 64, (keccakRc.getD ir 0).getLsbD n =
    (List.range 7).any fun j => decide (n = 2 ^ j - 1) && (lfsr (j + 7 * ir)).testBit 0 := by decide +kernel

/-- Settles O47, table by table. -/
theorem constantTablesFollowTheirGenerators : Obligations.ConstantTablesFollowTheirGenerators :=
  ⟨⟨rfl, zetas_eq_pow⟩, by decide, ⟨gammas_length, gammas_eq_pow⟩, gammas_paired, ⟨rfl, rotOffset_of_rotWalk⟩,
    ⟨rfl, keccakRc_eq_lfsr⟩⟩

end Sys2Proof.Machine
end

section
/-! PROOFS. Lengths and ranges of what the transforms and the base-case product give (43_ntt.md R190, R193, R194), the
128 base cases one by one, and the commands NTT, INTT and BASEMUL (R195 to R197; O31, O32). -/

namespace Sys2Proof.Machine

/-! ### Every coefficient computed is below q -/

theorem canonical_iff {f : List Nat} : canonical f = true ↔ ∀ x ∈ f, x < q := by
  simp [canonical]

theorem fwdLayer_lt (len n i : Nat) (x : List Nat) : ∀ c ∈ fwdLayer len n i x, c < q := by
  induction n generalizing i x with
  | zero => simp [fwdLayer]
  | succ n ih =>
    rw [fwdLayer, fwdBlock]
    simp only [List.forall_mem_append]
    exact ⟨⟨forall_mem_zipWith addQ_lt _ _, forall_mem_zipWith subQ_lt _ _⟩, ih _ _⟩

theorem ntt_lt (f : List Nat) : ∀ c ∈ ntt f, c < q := fwdLayer_lt _ _ _ _

theorem intt_lt (f : List Nat) : ∀ c ∈ intt f, c < q :=
  List.forall_mem_map.mpr fun _ _ => mulMod_lt _ _

theorem basemulPairs_lt (gs a b : List Nat) : ∀ c ∈ basemulPairs gs a b, c < q := by
  induction gs, a, b using basemulPairs.induct with
  | case1 g gs a0 a1 a b0 b1 b ih =>
    rw [basemulPairs, List.forall_mem_cons, List.forall_mem_cons]
    exact ⟨Nat.mod_lt _ (by decide), Nat.mod_lt _ (by decide), ih⟩
  | case2 gs a b hshort => simp [basemulPairs]

/-! ### The base-case product, pair by pair -/

theorem mulMod_natCast (a b : Nat) : mulMod a b = a * b % 3329 := by
  have h := mulMod_cast a b
  exact_mod_cast h

theorem basemulPairs_length : ∀ {gs a b : List Nat}, a.length = 2 * gs.length → b.length = 2 * gs.length →
    (basemulPairs gs a b).length = 2 * gs.length
  | [], _, _, _, _ => by simp [basemulPairs]
  | g :: gs, a0 :: a1 :: a, b0 :: b1 :: b, ha, hb => by
    simp only [List.length_cons] at ha hb
    simp only [basemulPairs, List.length_cons, basemulPairs_length (gs := gs) (a := a) (b := b) (by omega) (by omega)]
    omega

theorem basemulPairs_getD : ∀ {gs a b : List Nat}, a.length = 2 * gs.length → b.length = 2 * gs.length →
    ∀ m < gs.length,
      (basemulPairs gs a b).getD (2 * m) 0 =
        (a.getD (2 * m) 0 * b.getD (2 * m) 0 + gs.getD m 0 * (a.getD (2 * m + 1) 0 * b.getD (2 * m + 1) 0)) % 3329 ∧
      (basemulPairs gs a b).getD (2 * m + 1) 0 =
        (a.getD (2 * m) 0 * b.getD (2 * m + 1) 0 + a.getD (2 * m + 1) 0 * b.getD (2 * m) 0) % 3329
  | g :: gs, a0 :: a1 :: a, b0 :: b1 :: b, _, _, 0, _ => by
    refine ⟨?_, rfl⟩
    simp only [basemulPairs, mulMod_natCast, List.getD_cons_zero, List.getD_cons_succ, Nat.mul_zero, Nat.zero_add]
    rw [Nat.add_mod, Nat.mul_mod_mod, ← Nat.add_mod]
  | g :: gs, a0 :: a1 :: a, b0 :: b1 :: b, ha, hb, m + 1, hm => by
    simp only [List.length_cons] at ha hb hm
    exact basemulPairs_getD (by omega) (by omega) m (by omega)

section

variable {a b : List Nat} (ha : a.length = 256) (hb : b.length = 256)

include ha hb

theorem basemul_length : (basemul a b).length = 256 := by
  rw [basemul, basemulPairs_length] <;> rw [gammas_length] <;> assumption

theorem basemul_getD {m : Nat} (hm : m < 128) :
    (basemul a b).getD (2 * m) 0 =
      (a.getD (2 * m) 0 * b.getD (2 * m) 0 +
        gammas.getD m 0 * (a.getD (2 * m + 1) 0 * b.getD (2 * m + 1) 0)) % 3329 ∧
    (basemul a b).getD (2 * m + 1) 0 =
      (a.getD (2 * m) 0 * b.getD (2 * m + 1) 0 + a.getD (2 * m + 1) 0 * b.getD (2 * m) 0) % 3329 := by
  rw [basemul]
  apply basemulPairs_getD <;> rw [gammas_length] <;> assumption

end

/-! ### The commands -/

theorem pregUnary_of_canonical {s : State} (f : List Nat → List Nat) (d : Word) {a : Word}
    (ha : canonical (s.preg a.toNat).coeffs = true) :
    pregUnary f d a s = some (s.setPreg d.toNat (Poly.ofCoeffs (f (s.preg a.toNat).coeffs))) := by
  simp [pregUnary, ha]

theorem lt_cell_of_lt_q {f : List Nat} (h : ∀ x ∈ f, x < q) : ∀ x ∈ f, x < 4096 :=
  fun x hx => (h x hx).trans (by decide)

/-- Settles O31: both effects write the transform, of 256 coefficients below q, to the destination. -/
theorem nttAndInttComplete : Obligations.NttAndInttComplete := by
  intro s d a hd ha hr hA
  have hlen := (s.preg a.toNat).coeffs_length
  exact ⟨exec_setPreg_completes rfl ⟨hd, ha⟩ hr (pregUnary_of_canonical _ d hA) (ntt_length _ hlen)
      (lt_cell_of_lt_q (ntt_lt _)),
    exec_setPreg_completes rfl ⟨hd, ha⟩ hr (pregUnary_of_canonical _ d hA) (intt_length _ hlen)
      (lt_cell_of_lt_q (intt_lt _))⟩

/-- Settles O32: the destination holds the base-case product, whose pairs are read one by one. -/
theorem basemulCompletes : Obligations.BasemulCompletes := by
  intro s d a b hd ha hb hr hA hB
  have hlenA := (s.preg a.toNat).coeffs_length
  have hlenB := (s.preg b.toNat).coeffs_length
  obtain ⟨t, ht, hframe, hcoeffs, hothers⟩ := exec_setPreg_completes (i := .basemul d a b) rfl ⟨hd, ha, hb⟩ hr
    (pregBinary_of_canonical _ d hA hB) (basemul_length hlenA hlenB) (lt_cell_of_lt_q (basemulPairs_lt _ _ _))
  refine ⟨t, ht, hframe, hothers, ?_⟩
  rw [hcoeffs]
  exact fun m hm => basemul_getD hlenA hlenB hm

end Sys2Proof.Machine
end

section
/-! PROOFS. Coefficient lists read modulo q, and the butterfly layers of the transforms (43_ntt.md R190, R193) coefficient
by coefficient in ZMod q. -/

namespace Sys2Proof.Machine

/-! ### The operations modulo q in ZMod q -/

theorem toNat_emod_q_cast (z : Int) : ((z % (q : Int)).toNat : ZMod q) = z := by
  have h : (((z % (q : Int)).toNat : Int) : ZMod q) = ((z % (q : Int) : Int) : ZMod q) := by
    rw [Int.toNat_of_nonneg (Int.emod_nonneg _ (by decide))]
  rwa [ZMod.intCast_mod, Int.cast_natCast] at h

theorem addQ_zmod (a b : Nat) : (addQ a b : ZMod q) = a + b := by
  rw [addQ, ZMod.natCast_mod, Nat.cast_add]

theorem subQ_zmod (a b : Nat) : (subQ a b : ZMod q) = a - b := by
  rw [subQ, toNat_emod_q_cast, Int.cast_sub, Int.cast_natCast, Int.cast_natCast]

theorem mulMod_zmod (a b : Int) : (mulMod a b : ZMod q) = a * b := by
  rw [mulMod, toNat_emod_q_cast, Int.cast_mul]

/-! ### Coefficients in ZMod q -/

/-- Coefficient `c` of a list modulo q, 0 past the end. -/
def coeffMod (x : List Nat) (c : Nat) : ZMod q := (x.getD c 0 : Nat)

theorem eq_of_coeffMod_eq {x y : List Nat} (hlen : x.length = y.length) (hx : ∀ v ∈ x, v < q) (hy : ∀ v ∈ y, v < q)
    (h : ∀ c < x.length, coeffMod x c = coeffMod y c) : x = y := by
  refine List.ext_getElem hlen fun c hcx hcy => ?_
  have hc := h c hcx
  rw [coeffMod, coeffMod, List.getD_eq_getElem _ _ hcx, List.getD_eq_getElem _ _ hcy, ZMod.natCast_eq_natCast_iff'] at hc
  rwa [Nat.mod_eq_of_lt (hx _ (List.getElem_mem hcx)), Nat.mod_eq_of_lt (hy _ (List.getElem_mem hcy))] at hc

variable {x y : List Nat} {c n : Nat}

theorem coeffMod_take (h : c < n) : coeffMod (x.take n) c = coeffMod x c := by
  simp [coeffMod, List.getD_eq_getElem?_getD, h]

theorem coeffMod_drop : coeffMod (x.drop n) c = coeffMod x (n + c) := by
  simp [coeffMod, List.getD_eq_getElem?_getD]

theorem coeffMod_append_left (h : c < x.length) : coeffMod (x ++ y) c = coeffMod x c := by
  rw [coeffMod, List.getD_append _ _ _ _ h, coeffMod]

theorem coeffMod_append_right (h : x.length = n) : coeffMod (x ++ y) (n + c) = coeffMod y c := by
  rw [coeffMod, List.getD_append_right _ _ _ _ (by omega), h, Nat.add_sub_cancel_left, coeffMod]

theorem coeffMod_map {f : Nat → Nat} {s : ZMod q} (hf : ∀ v : Nat, (f v : ZMod q) = s * v) :
    coeffMod (x.map f) c = s * coeffMod x c := by
  by_cases hc : c < x.length
  · simp [coeffMod, List.getD_eq_getElem?_getD, hc, hf]
  · simp [coeffMod, List.getD_eq_getElem?_getD, hc]

theorem coeffMod_zipWith_addQ (hx : c < x.length) (hy : c < y.length) :
    coeffMod (List.zipWith addQ x y) c = coeffMod x c + coeffMod y c := by
  rw [coeffMod, getD_zipWith _ hx hy, addQ_zmod, coeffMod, coeffMod]

theorem coeffMod_zipWith_subQ (hx : c < x.length) (hy : c < y.length) :
    coeffMod (List.zipWith subQ x y) c = coeffMod x c - coeffMod y c := by
  rw [coeffMod, getD_zipWith _ hx hy, subQ_zmod, coeffMod, coeffMod]

/-! ### One block -/

variable {len j : Nat} (z : Nat)

theorem coeffMod_fwdBlock (hx : x.length = 2 * len) (hj : j < len) :
    coeffMod (fwdBlock len z x) j = coeffMod x j + z * coeffMod x (len + j) ∧
    coeffMod (fwdBlock len z x) (len + j) = coeffMod x j - z * coeffMod x (len + j) := by
  have hmul (v : Nat) : (mulMod z v : ZMod q) = z * v := by simpa using mulMod_zmod z v
  have hlo : j < (x.take len).length := by rw [List.length_take]; omega
  have hhi : j < ((x.drop len).map fun v : Nat => mulMod z v).length := by rw [List.length_map, List.length_drop]; omega
  have hsum : (List.zipWith addQ (x.take len) ((x.drop len).map fun v : Nat => mulMod z v)).length = len := by
    rw [List.length_zipWith, List.length_take, List.length_map, List.length_drop]
    omega
  rw [fwdBlock, coeffMod_append_left (by rwa [hsum]), coeffMod_append_right hsum, coeffMod_zipWith_addQ hlo hhi,
    coeffMod_zipWith_subQ hlo hhi, coeffMod_take hj, coeffMod_map hmul, coeffMod_drop]
  exact ⟨rfl, rfl⟩

theorem coeffMod_invBlock (hx : x.length = 2 * len) (hj : j < len) :
    coeffMod (invBlock len z x) j = coeffMod x j + coeffMod x (len + j) ∧
    coeffMod (invBlock len z x) (len + j) = z * (coeffMod x j - coeffMod x (len + j)) := by
  have hmul (v : Nat) : (mulMod v z : ZMod q) = z * v := by simpa [mul_comm] using mulMod_zmod v z
  have hlo : j < (x.take len).length := by rw [List.length_take]; omega
  have hhi : j < (x.drop len).length := by rw [List.length_drop]; omega
  have hsum : (List.zipWith addQ (x.take len) (x.drop len)).length = len := by
    rw [List.length_zipWith, List.length_take, List.length_drop]
    omega
  rw [invBlock, coeffMod_append_left (by rwa [hsum]), coeffMod_append_right hsum, coeffMod_map hmul,
    coeffMod_zipWith_addQ hlo hhi, coeffMod_zipWith_subQ hlo hhi, coeffMod_take hj, coeffMod_drop]
  exact ⟨rfl, rfl⟩

/-! ### One layer: its blocks side by side -/

/-- Block `k` of `2 * len` coefficients. -/
def block (len k : Nat) (x : List Nat) : List Nat := (x.drop (2 * len * k)).take (2 * len)

theorem block_length {k : Nat} (hx : x.length = n * (2 * len)) (hk : k < n) : (block len k x).length = 2 * len := by
  have hmul : 2 * len * (k + 1) ≤ x.length := by
    rw [hx, Nat.mul_comm n]
    exact Nat.mul_le_mul_left _ hk
  rw [Nat.mul_succ] at hmul
  simp only [block, List.length_take, List.length_drop]
  omega

theorem block_drop (k : Nat) : block len k (x.drop (2 * len)) = block len (k + 1) x := by
  rw [block, block, List.drop_drop, Nat.mul_succ, Nat.add_comm]

theorem two_mul_mul_add (len k j : Nat) : 2 * len * k + j = len * (2 * k) + j := by ring

theorem two_mul_mul_add_add (len k j : Nat) : 2 * len * k + (len + j) = len * (2 * k + 1) + j := by ring

theorem coeffMod_block (k : Nat) (hj : j < len) :
    coeffMod (block len k x) j = coeffMod x (len * (2 * k) + j) ∧
    coeffMod (block len k x) (len + j) = coeffMod x (len * (2 * k + 1) + j) := by
  rw [block, coeffMod_take (by omega), coeffMod_take (by omega), coeffMod_drop, coeffMod_drop, two_mul_mul_add,
    two_mul_mul_add_add]
  exact ⟨rfl, rfl⟩

theorem fwdLayer_eq_flatMap (len n i : Nat) (x : List Nat) :
    fwdLayer len n i x = (List.range n).flatMap fun k => fwdBlock len (zetas.getD (i + k) 0) (block len k x) := by
  induction n generalizing i x with
  | zero => rfl
  | succ n ih =>
    rw [fwdLayer, ih, List.range_succ_eq_map, List.flatMap_cons, List.flatMap_map]
    simp only [block_drop, Nat.add_assoc, Nat.add_comm 1]
    rfl

theorem invLayer_eq_flatMap (len n i : Nat) (x : List Nat) :
    invLayer len n i x = (List.range n).flatMap fun k => invBlock len (q - zetas.getD (i - k) 0) (block len k x) := by
  induction n generalizing i x with
  | zero => rfl
  | succ n ih =>
    rw [invLayer, ih, List.range_succ_eq_map, List.flatMap_cons, List.flatMap_map]
    simp only [block_drop, Nat.sub_sub, Nat.add_comm 1]
    rfl

theorem coeffMod_flatMap {g : Nat → List Nat} {m k : Nat} (hg : ∀ k < n, (g k).length = m) (hk : k < n) (hj : j < m) :
    coeffMod ((List.range n).flatMap g) (m * k + j) = coeffMod (g k) j := by
  induction n generalizing g k with
  | zero => omega
  | succ n ih =>
    rw [List.range_succ_eq_map, List.flatMap_cons, List.flatMap_map]
    cases k with
    | zero => rw [Nat.mul_zero, Nat.zero_add, coeffMod_append_left (by rwa [hg 0 hk])]
    | succ k =>
      rw [Nat.mul_succ, Nat.add_comm _ m, Nat.add_assoc, coeffMod_append_right (hg 0 (by omega)),
        ih (fun k hk => hg (k + 1) (by omega)) (by omega)]

/-! ### One layer in halves: block `k` has the halves `2 * k` and `2 * k + 1` of `len` coefficients -/

variable {k : Nat} (i : Nat)

theorem coeffMod_flatMap_halves {g : Nat → List Nat} (hg : ∀ k < n, (g k).length = 2 * len) (hk : k < n)
    (hj : j < len) :
    coeffMod ((List.range n).flatMap g) (len * (2 * k) + j) = coeffMod (g k) j ∧
    coeffMod ((List.range n).flatMap g) (len * (2 * k + 1) + j) = coeffMod (g k) (len + j) := by
  rw [← two_mul_mul_add, ← two_mul_mul_add_add]
  exact ⟨coeffMod_flatMap hg hk (by omega), coeffMod_flatMap hg hk (by omega)⟩

theorem coeffMod_fwdLayer (hx : x.length = n * (2 * len)) (hk : k < n) (hj : j < len) :
    coeffMod (fwdLayer len n i x) (len * (2 * k) + j) =
      coeffMod x (len * (2 * k) + j) + coeffMod zetas (i + k) * coeffMod x (len * (2 * k + 1) + j) ∧
    coeffMod (fwdLayer len n i x) (len * (2 * k + 1) + j) =
      coeffMod x (len * (2 * k) + j) - coeffMod zetas (i + k) * coeffMod x (len * (2 * k + 1) + j) := by
  obtain ⟨hlo, hhi⟩ := coeffMod_flatMap_halves (g := fun k => fwdBlock len (zetas.getD (i + k) 0) (block len k x))
    (fun k hk => fwdBlock_length _ _ _ (block_length hx hk)) hk hj
  obtain ⟨hblock_lo, hblock_hi⟩ := coeffMod_block (x := x) k hj
  rw [fwdLayer_eq_flatMap, hlo, hhi, ← hblock_lo, ← hblock_hi]
  exact coeffMod_fwdBlock _ (block_length hx hk) hj

theorem neg_zeta_zmod (i : Nat) : ((q - zetas.getD i 0 : Nat) : ZMod q) = -coeffMod zetas i := by
  have hle : zetas.getD i 0 ≤ q := by
    by_cases hi : i < zetas.length
    · rw [zetas_eq_pow i hi]
      exact (Nat.mod_lt _ (by decide)).le
    · rw [List.getD_eq_default _ _ (by omega)]
      exact Nat.zero_le _
  rw [Nat.cast_sub hle, ZMod.natCast_self, zero_sub, coeffMod]

theorem coeffMod_invLayer (hx : x.length = n * (2 * len)) (hk : k < n) (hj : j < len) :
    coeffMod (invLayer len n i x) (len * (2 * k) + j) =
      coeffMod x (len * (2 * k) + j) + coeffMod x (len * (2 * k + 1) + j) ∧
    coeffMod (invLayer len n i x) (len * (2 * k + 1) + j) =
      -coeffMod zetas (i - k) * (coeffMod x (len * (2 * k) + j) - coeffMod x (len * (2 * k + 1) + j)) := by
  obtain ⟨hlo, hhi⟩ := coeffMod_flatMap_halves (g := fun k => invBlock len (q - zetas.getD (i - k) 0) (block len k x))
    (fun k hk => invBlock_length _ _ _ (block_length hx hk)) hk hj
  obtain ⟨hblock_lo, hblock_hi⟩ := coeffMod_block (x := x) k hj
  rw [invLayer_eq_flatMap, hlo, hhi, ← hblock_lo, ← hblock_hi, ← neg_zeta_zmod]
  exact coeffMod_invBlock _ (block_length hx hk) hj

theorem forall_lt_of_halves {p : Nat → Prop}
    (h : ∀ k < n, ∀ j < len, p (len * (2 * k) + j) ∧ p (len * (2 * k + 1) + j)) : ∀ c < n * (2 * len), p c := by
  intro c hc
  have hblock : c / (2 * len) < n := Nat.div_lt_of_lt_mul (by rwa [Nat.mul_comm])
  have hlen : 0 < len := Nat.pos_of_ne_zero (by rintro rfl; simp at hc)
  have hdiv : c / (2 * len) = c / len / 2 := by rw [Nat.div_div_eq_div_mul, Nat.mul_comm]
  obtain ⟨hlo, hhi⟩ := h _ hblock _ (Nat.mod_lt c hlen)
  have hc' := Nat.div_add_mod c len
  obtain ⟨k, hk | hk⟩ := Nat.even_or_odd' (c / len)
  · rwa [show c / (2 * len) = k by omega, ← hk, hc'] at hlo
  · rwa [show c / (2 * len) = k by omega, ← hk, hc'] at hhi

end Sys2Proof.Machine
end

section
/-! PROOFS. The round-trip law (43_ntt.md R198; O51): a layer of either transform undoes the layer of the other one of the
same length up to a factor 2, and 3303 · 2^7 = 1 mod q. -/

namespace Sys2Proof.Machine

/-- The block lengths of the forward transform in order (43_ntt.md R190). -/
def layerLens : List Nat := [128, 64, 32, 16, 8, 4, 2]

/-- The layer of length `len` of the forward transform (43_ntt.md R190). -/
def nttLayer (x : List Nat) (len : Nat) : List Nat := fwdLayer len (128 / len) (128 / len) x

/-- The layer of length `len` of the inverse transform (43_ntt.md R193). -/
def inttLayer (x : List Nat) (len : Nat) : List Nat := invLayer len (128 / len) (2 * (128 / len) - 1) x

theorem ntt_eq_foldl (f : List Nat) : ntt f = layerLens.foldl nttLayer f := rfl

theorem intt_eq_foldl (f : List Nat) :
    intt f = (layerLens.reverse.foldl inttLayer f).map fun c : Nat => mulMod c 3303 := rfl

section

variable {len : Nat} (h : len ∈ layerLens) {x y : List Nat}

include h

theorem blocks_mul_len : 128 / len * (2 * len) = 256 := by
  have hall : ∀ len ∈ layerLens, 128 / len * (2 * len) = 256 := by decide
  exact hall len h

theorem nttLayer_length (hx : x.length = 256) : (nttLayer x len).length = 256 := by
  rw [nttLayer, fwdLayer_length] <;> rw [blocks_mul_len h]
  exact hx

theorem inttLayer_length (hx : x.length = 256) : (inttLayer x len).length = 256 := by
  rw [inttLayer, invLayer_length] <;> rw [blocks_mul_len h]
  exact hx

/-- The zeta of a block in the forward layer and the negated one of the inverse layer are inverse modulo q. -/
theorem zeta_mul_neg_zeta {k : Nat} (hk : k < 128 / len) :
    coeffMod zetas (128 / len + k) * -coeffMod zetas (2 * (128 / len) - 1 - k) = 1 := by
  have hall : ∀ len ∈ layerLens, ∀ k < 128 / len,
      zetas.getD (128 / len + k) 0 * (q - zetas.getD (2 * (128 / len) - 1 - k) 0) % q = 1 % q := by decide +kernel
  rw [← neg_zeta_zmod, coeffMod, ← Nat.cast_mul, (ZMod.natCast_eq_natCast_iff' _ _ _).mpr (hall len h k hk),
    Nat.cast_one]

theorem layer_halves_lt {k j : Nat} (hk : k < 128 / len) (hj : j < len) :
    len * (2 * k) + j < 256 ∧ len * (2 * k + 1) + j < 256 := by
  have hmul : 2 * len * (k + 1) ≤ 256 := by
    rw [← blocks_mul_len h, Nat.mul_comm]
    exact Nat.mul_le_mul_right _ hk
  constructor <;> linarith

/-- A property of all 256 indexes, shown half block by half block of the layer of length `len`. -/
theorem forall_lt_of_layer_halves {p : Nat → Prop}
    (hp : ∀ k < 128 / len, ∀ j < len, p (len * (2 * k) + j) ∧ p (len * (2 * k + 1) + j)) : ∀ c < 256, p c := by
  have hall := forall_lt_of_halves hp
  rwa [blocks_mul_len h] at hall

end

/-- `y` has the coefficients of `x` modulo q, each times `s`. -/
def IsMultiple (s : ZMod q) (x y : List Nat) : Prop :=
  y.length = 256 ∧ ∀ c < 256, coeffMod y c = s * coeffMod x c

/-- A layer of `F` keeps the length, and the layer of `G` of the same length undoes it up to a factor 2, on multiples
too. -/
def UndoneBy (F G : List Nat → Nat → List Nat) (len : Nat) : Prop :=
  ∀ ⦃x : List Nat⦄, x.length = 256 → (F x len).length = 256 ∧
    ∀ ⦃y : List Nat⦄ ⦃s : ZMod q⦄, IsMultiple s (F x len) y → IsMultiple (2 * s) x (G y len)

theorem nttLayer_undoneBy_inttLayer {len : Nat} (h : len ∈ layerLens) : UndoneBy nttLayer inttLayer len := by
  intro x hx
  refine ⟨nttLayer_length h hx, fun y s hy => ?_⟩
  obtain ⟨hylen, hy⟩ := hy
  refine ⟨inttLayer_length h hylen, forall_lt_of_layer_halves h fun k hk j hj => ?_⟩
  rw [← blocks_mul_len h] at hx hylen
  obtain ⟨hlt, hlt'⟩ := layer_halves_lt h hk hj
  obtain ⟨hF, hF'⟩ := coeffMod_fwdLayer (128 / len) hx hk hj
  obtain ⟨hG, hG'⟩ := coeffMod_invLayer (2 * (128 / len) - 1) hylen hk hj
  rw [inttLayer, hG, hG', hy _ hlt, hy _ hlt', nttLayer, hF, hF']
  refine ⟨by ring, ?_⟩
  linear_combination (2 * s * coeffMod x (len * (2 * k + 1) + j)) * zeta_mul_neg_zeta h hk

theorem inttLayer_undoneBy_nttLayer {len : Nat} (h : len ∈ layerLens) : UndoneBy inttLayer nttLayer len := by
  intro x hx
  refine ⟨inttLayer_length h hx, fun y s hy => ?_⟩
  obtain ⟨hylen, hy⟩ := hy
  refine ⟨nttLayer_length h hylen, forall_lt_of_layer_halves h fun k hk j hj => ?_⟩
  rw [← blocks_mul_len h] at hx hylen
  obtain ⟨hlt, hlt'⟩ := layer_halves_lt h hk hj
  obtain ⟨hF, hF'⟩ := coeffMod_invLayer (2 * (128 / len) - 1) hx hk hj
  obtain ⟨hG, hG'⟩ := coeffMod_fwdLayer (128 / len) hylen hk hj
  have hdiff := congrArg (· * (s * (coeffMod x (len * (2 * k) + j) - coeffMod x (len * (2 * k + 1) + j))))
    (zeta_mul_neg_zeta h hk)
  rw [nttLayer, hG, hG', hy _ hlt, hy _ hlt', inttLayer, hF, hF']
  exact ⟨by linear_combination hdiff, by linear_combination -hdiff⟩

/-- Layers undone in reverse order, each up to a factor 2. -/
theorem foldl_undone {F G : List Nat → Nat → List Nat} {ls : List Nat} (h : ∀ len ∈ ls, UndoneBy F G len)
    {x y : List Nat} {s : ZMod q} (hx : x.length = 256) (hy : IsMultiple s (ls.foldl F x) y) :
    IsMultiple (2 ^ ls.length * s) x (ls.reverse.foldl G y) := by
  induction ls generalizing x with
  | nil => simpa using hy
  | cons len ls ih =>
    obtain ⟨hlen, hundo⟩ := h len List.mem_cons_self hx
    have hlast := hundo (ih (fun l hl => h l (List.mem_cons_of_mem _ hl)) hlen hy)
    rwa [List.reverse_cons, List.foldl_concat, List.length_cons, pow_succ', mul_assoc]

theorem IsMultiple.refl {x : List Nat} (hx : x.length = 256) : IsMultiple 1 x x :=
  ⟨hx, fun _ _ => (one_mul _).symm⟩

/-- The scale that ends the inverse transform (43_ntt.md R193). -/
theorem IsMultiple.scale {s : ZMod q} {x y : List Nat} (h : IsMultiple s x y) :
    IsMultiple (3303 * s) x (y.map fun c : Nat => mulMod c 3303) := by
  obtain ⟨hlen, hy⟩ := h
  have hmul (v : Nat) : (mulMod v 3303 : ZMod q) = 3303 * v := by simpa [mul_comm] using mulMod_zmod v 3303
  refine ⟨by rwa [List.length_map], fun c hc => ?_⟩
  rw [coeffMod_map hmul, hy c hc, mul_assoc]

theorem IsMultiple.eq {x y : List Nat} (h : IsMultiple 1 x y) (hx : x.length = 256) (hxq : ∀ v ∈ x, v < q)
    (hyq : ∀ v ∈ y, v < q) : y = x := by
  obtain ⟨hlen, hy⟩ := h
  refine eq_of_coeffMod_eq (hlen.trans hx.symm) hyq hxq fun c hc => ?_
  rw [hy c (hlen ▸ hc), one_mul]

theorem intt_ntt_isMultiple {f : List Nat} (hf : f.length = 256) :
    IsMultiple (2 ^ 7 * 3303) f (intt (ntt f)) := by
  have hundo := foldl_undone (fun _ => nttLayer_undoneBy_inttLayer) hf (.refl (ntt_length f hf))
  rw [mul_one] at hundo
  rw [mul_comm]
  exact hundo.scale

theorem ntt_intt_isMultiple {f : List Nat} (hf : f.length = 256) :
    IsMultiple (2 ^ 7 * 3303) f (ntt (intt f)) := by
  have hlen : (layerLens.reverse.foldl inttLayer f).length = 256 := by
    have h := intt_length f hf
    rwa [intt_eq_foldl, List.length_map] at h
  have hscale := (IsMultiple.refl hlen).scale
  rw [mul_one, ← intt_eq_foldl] at hscale
  have hundo := foldl_undone (fun _ h => inttLayer_undoneBy_nttLayer (List.mem_reverse.mp h)) hf hscale
  rwa [List.reverse_reverse, ← ntt_eq_foldl] at hundo

/-- Settles O51: the 7 layers of one transform undo those of the other up to 2^7, which the scale makes good. -/
theorem nttRoundTrip : Obligations.NttRoundTrip := by
  intro f hf hcanon
  have hfq := canonical_iff.mp hcanon
  have hscale : (2 ^ 7 * 3303 : ZMod q) = 1 := by decide
  exact ⟨(hscale ▸ intt_ntt_isMultiple hf).eq hf hfq (intt_lt _),
    (hscale ▸ ntt_intt_isMultiple hf).eq hf hfq (ntt_lt _)⟩

end Sys2Proof.Machine
end

section
/-! PROOFS. What the forward transform computes (43_ntt.md R190, R192; O52): each layer splits every block, the residue
modulo X^(2 len) - z^2, into the residues modulo X^len - z and X^len + z. -/

namespace Sys2Proof.Machine

/-- The blocks of the forward transform are nodes of a binary tree: block `b` of `n` is node `n + b`, the polynomial itself
is node 1, and the halves of node `i` are the nodes `2 * i` and `2 * i + 1`. The block at a node is a residue modulo
X^len - w for the root `w` of the node. -/
def nodeRoot (i : Nat) : ZMod q := if i % 2 = 0 then coeffMod zetas (i / 2) else -coeffMod zetas (i / 2)

theorem nodeRoot_two_mul (i : Nat) : nodeRoot (2 * i) = coeffMod zetas i := by
  rw [nodeRoot, if_pos (by omega), Nat.mul_div_cancel_left i (by decide)]

theorem nodeRoot_two_mul_add_one (i : Nat) : nodeRoot (2 * i + 1) = -coeffMod zetas i := by
  rw [nodeRoot, if_neg (by omega), show (2 * i + 1) / 2 = i by omega]

theorem zeta_sq {i : Nat} (hi : 0 < i) (hi' : i < 128) : coeffMod zetas i ^ 2 = nodeRoot i := by
  have hall : ∀ i < 128, 0 < i → zetas.getD i 0 ^ 2 % q =
      (if i % 2 = 0 then zetas.getD (i / 2) 0 else q - zetas.getD (i / 2) 0) % q := by decide +kernel
  rw [coeffMod, ← Nat.cast_pow, (ZMod.natCast_eq_natCast_iff' _ _ _).mpr (hall i hi' hi), nodeRoot, apply_ite Nat.cast,
    neg_zeta_zmod, coeffMod]

theorem gamma_eq_nodeRoot {i : Nat} (hi : i < 128) : coeffMod gammas i = nodeRoot (128 + i) := by
  rw [coeffMod]
  obtain ⟨m, hm | hm⟩ := Nat.even_or_odd' i
  · obtain ⟨-, heven⟩ := gammas_paired m (by omega)
    rw [hm, heven, show 128 + 2 * m = 2 * (64 + m) by ring, nodeRoot_two_mul, coeffMod]
  · obtain ⟨hodd, heven⟩ := gammas_paired m (by omega)
    rw [hm, hodd, heven, show 128 + (2 * m + 1) = 2 * (64 + m) + 1 by ring, nodeRoot_two_mul_add_one, neg_zeta_zmod]

theorem sum_range_two_mul {R : Type*} [AddCommMonoid R] (g : Nat → R) (n : Nat) :
    ∑ t ∈ Finset.range (2 * n), g t = ∑ t ∈ Finset.range n, (g (2 * t) + g (2 * t + 1)) := by
  induction n with
  | zero => rfl
  | succ n ih => rw [Nat.mul_succ, Finset.sum_range_succ, Finset.sum_range_succ, Finset.sum_range_succ, ih, add_assoc]

/-- Coefficient `j` of the residue of `f`, of `len * n` coefficients, modulo X^len - w. -/
def residueCoeff (f : List Nat) (len n : Nat) (w : ZMod q) (j : Nat) : ZMod q :=
  ∑ t ∈ Finset.range n, coeffMod f (len * t + j) * w ^ t

/-- From the residue modulo X^(2 len) - w^2 to the one modulo X^len - w. -/
theorem residueCoeff_half (f : List Nat) (len n j : Nat) (w : ZMod q) :
    residueCoeff f len (2 * n) w j =
      residueCoeff f (2 * len) n (w ^ 2) j + w * residueCoeff f (2 * len) n (w ^ 2) (len + j) := by
  rw [residueCoeff, sum_range_two_mul, Finset.sum_add_distrib, residueCoeff, residueCoeff, Finset.mul_sum]
  congr 1
  · refine Finset.sum_congr rfl fun t _ => ?_
    rw [two_mul_mul_add, pow_mul]
  · refine Finset.sum_congr rfl fun t _ => ?_
    rw [two_mul_mul_add_add, pow_succ, pow_mul]
    ring

/-- A layer splits the residue at node `n + k` into the residues at its two children. -/
theorem coeffMod_fwdLayer_residue {f x : List Nat} {len n k j : Nat} (hn : 0 < n) (hn' : n ≤ 64)
    (hx : x.length = n * (2 * len)) (hk : k < n) (hj : j < len)
    (hblock : ∀ j < 2 * len, coeffMod x (2 * len * k + j) = residueCoeff f (2 * len) n (nodeRoot (n + k)) j) :
    coeffMod (fwdLayer len n n x) (len * (2 * k) + j) = residueCoeff f len (2 * n) (nodeRoot (2 * n + 2 * k)) j ∧
    coeffMod (fwdLayer len n n x) (len * (2 * k + 1) + j) =
      residueCoeff f len (2 * n) (nodeRoot (2 * n + (2 * k + 1))) j := by
  have hlo := hblock j (by omega)
  have hhi := hblock (len + j) (by omega)
  rw [← zeta_sq (by omega) (by omega)] at hlo hhi
  rw [two_mul_mul_add] at hlo
  rw [two_mul_mul_add_add] at hhi
  obtain ⟨hF, hF'⟩ := coeffMod_fwdLayer n hx hk hj
  rw [hF, hF', hlo, hhi, ← Nat.add_assoc, ← Nat.mul_add, nodeRoot_two_mul, nodeRoot_two_mul_add_one, residueCoeff_half,
    residueCoeff_half, neg_sq, neg_mul, sub_eq_add_neg]
  exact ⟨rfl, rfl⟩

/-- Every block of `len` coefficients of `x` is the residue of `f` at its node. -/
def IsReduced (f : List Nat) (len : Nat) (x : List Nat) : Prop :=
  x.length = 256 ∧ ∀ b < 256 / len, ∀ j < len,
    coeffMod x (len * b + j) = residueCoeff f len (256 / len) (nodeRoot (256 / len + b)) j

theorem IsReduced.self {f : List Nat} (hf : f.length = 256) : IsReduced f 256 f := by
  refine ⟨hf, fun b hb j _ => ?_⟩
  simp [residueCoeff, show b = 0 by omega]

theorem IsReduced.nttLayer {f x : List Nat} {len : Nat} (h : len ∈ layerLens) (hx : IsReduced f (2 * len) x) :
    IsReduced f len (nttLayer x len) := by
  obtain ⟨hlen, hblocks⟩ := hx
  have hcount : ∀ len ∈ layerLens, 256 / (2 * len) = 128 / len ∧ 256 / len = 2 * (128 / len) ∧
      0 < 128 / len ∧ 128 / len ≤ 64 := by decide
  obtain ⟨hn, hn', hpos, hle⟩ := hcount len h
  rw [hn] at hblocks
  refine ⟨nttLayer_length h hlen, ?_⟩
  rw [hn', Machine.nttLayer]
  rw [← blocks_mul_len h] at hlen
  intro b hb j hj
  obtain ⟨k, rfl | rfl⟩ := Nat.even_or_odd' b
  · have hk : k < 128 / len := by omega
    exact (coeffMod_fwdLayer_residue hpos hle hlen hk hj (hblocks k hk)).1
  · have hk : k < 128 / len := by omega
    exact (coeffMod_fwdLayer_residue hpos hle hlen hk hj (hblocks k hk)).2

theorem isReduced_ntt {f : List Nat} (hf : f.length = 256) : IsReduced f 2 (ntt f) := by
  have h128 := (IsReduced.self hf).nttLayer (len := 128) (by decide)
  have h64 := h128.nttLayer (len := 64) (by decide)
  have h32 := h64.nttLayer (len := 32) (by decide)
  have h16 := h32.nttLayer (len := 16) (by decide)
  have h8 := h16.nttLayer (len := 8) (by decide)
  have h4 := h8.nttLayer (len := 4) (by decide)
  exact h4.nttLayer (len := 2) (by decide)

/-- Entry `2 * i + j` of the transform modulo q, `j` below 2. -/
theorem coeffMod_ntt {f : List Nat} (hf : f.length = 256) {i j : Nat} (hi : i < 128) (hj : j < 2) :
    coeffMod (ntt f) (2 * i + j) = ∑ t ∈ Finset.range 128, coeffMod f (2 * t + j) * coeffMod gammas i ^ t := by
  obtain ⟨-, hblocks⟩ := isReduced_ntt hf
  rw [hblocks i hi j hj, gamma_eq_nodeRoot hi]
  rfl

/-- Settles O52: the blocks of the last layer, of 2 coefficients, are the residues modulo each X^2 - GAMMAS[i]. -/
theorem nttReducesModuloEachQuadratic : Obligations.NttReducesModuloEachQuadratic := by
  intro f hf _ i hi
  have hentry (j : Nat) (hj : j < 2) : (ntt f).getD (2 * i + j) 0 =
      (∑ t ∈ Finset.range 128, f.getD (2 * t + j) 0 * gammas.getD i 0 ^ t) % 3329 := by
    have hc : 2 * i + j < (ntt f).length := by rw [ntt_length f hf]; omega
    have hlt : (ntt f).getD (2 * i + j) 0 < 3329 := by
      rw [List.getD_eq_getElem _ _ hc]
      exact ntt_lt f _ (List.getElem_mem hc)
    rw [← Nat.mod_eq_of_lt hlt]
    refine (ZMod.natCast_eq_natCast_iff' _ _ q).mp ?_
    push_cast
    exact coeffMod_ntt hf hi hj
  exact ⟨hentry 0 (by decide), hentry 1 (by decide)⟩

end Sys2Proof.Machine
end

section
/-! PROOFS. The multiplication law (43_ntt.md R199; O53): the pairs of a transform are the polynomial's values at a root ω
of X^2 - GAMMAS[i], the base case multiplies such values, and ω^256 = -1. -/

namespace Sys2Proof.Machine

/-! ### Negacyclic products at a root of X^N + 1 -/

section

variable {R : Type*} [CommRing R] {w : R} {N : Nat}

theorem sum_shift_negacyclic (hw : w ^ N = -1) (b : Nat → R) {i : Nat} (hi : i ≤ N) :
    ∑ k ∈ Finset.range N, (if i ≤ k then b (k - i) else -b (N + k - i)) * w ^ k =
      w ^ i * ∑ j ∈ Finset.range N, b j * w ^ j := by
  obtain ⟨m, rfl⟩ := Nat.exists_eq_add_of_le hi
  have hlow : ∑ k ∈ Finset.range i, (if i ≤ k then b (k - i) else -b (i + m + k - i)) * w ^ k =
      w ^ i * ∑ k ∈ Finset.range i, b (m + k) * w ^ (m + k) := by
    rw [Finset.mul_sum]
    refine Finset.sum_congr rfl fun k hk => ?_
    have hki := Finset.mem_range.mp hk
    rw [if_neg (by omega), show i + m + k - i = m + k by omega]
    linear_combination (-b (m + k) * w ^ k) * hw
  have hhigh : ∑ k ∈ Finset.range m, (if i ≤ i + k then b (i + k - i) else -b (i + m + (i + k) - i)) * w ^ (i + k) =
      w ^ i * ∑ k ∈ Finset.range m, b k * w ^ k := by
    rw [Finset.mul_sum]
    refine Finset.sum_congr rfl fun k _ => ?_
    rw [if_pos (by omega), show i + k - i = k by omega, pow_add]
    ring
  rw [Finset.sum_range_add, hlow, hhigh, ← mul_add, Nat.add_comm i m, Finset.sum_range_add, add_comm]

/-- The product modulo X^N + 1 has the product of the values at a root of it. -/
theorem sum_negacyclic (hw : w ^ N = -1) (a b : Nat → R) :
    ∑ k ∈ Finset.range N, (∑ i ∈ Finset.range N, a i * if i ≤ k then b (k - i) else -b (N + k - i)) * w ^ k =
      (∑ i ∈ Finset.range N, a i * w ^ i) * ∑ j ∈ Finset.range N, b j * w ^ j := by
  simp only [Finset.sum_mul]
  rw [Finset.sum_comm]
  refine Finset.sum_congr rfl fun i hi => ?_
  rw [mul_assoc, ← sum_shift_negacyclic hw b (Finset.mem_range.mp hi).le, Finset.mul_sum]
  exact Finset.sum_congr rfl fun k _ => mul_assoc _ _ _

end

theorem negacyclic_length (a b : List Nat) : (negacyclic a b).length = 256 := by simp [negacyclic]

theorem coeffMod_negacyclic (a b : List Nat) {k : Nat} (hk : k < 256) :
    coeffMod (negacyclic a b) k = ∑ i ∈ Finset.range 256,
      coeffMod a i * if i ≤ k then coeffMod b (k - i) else -coeffMod b (256 + k - i) := by
  rw [coeffMod, negacyclic, getD_map_range _ _ hk, toNat_emod_q_cast, Int.cast_sum]
  refine Finset.sum_congr rfl fun i _ => ?_
  split <;> simp [coeffMod]

/-! ### Modulo X^2 - GAMMAS[i] -/

/-- ZMod q with a root ω of X^2 - GAMMAS[i]. -/
abbrev GammaRing (i : Nat) : Type := QuadraticAlgebra (ZMod q) (coeffMod gammas i) 0

/-- The value at ω of a polynomial of 256 coefficients. -/
def valueAt (i : Nat) (f : List Nat) : GammaRing i :=
  ∑ k ∈ Finset.range 256, algebraMap (ZMod q) (GammaRing i) (coeffMod f k) * QuadraticAlgebra.omega ^ k

/-- Entries `2 * i` and `2 * i + 1` of a transform, as one element. -/
def pairAt (i : Nat) (x : List Nat) : GammaRing i := ⟨coeffMod x (2 * i), coeffMod x (2 * i + 1)⟩

variable {i : Nat}

theorem omega_pow_two_mul (t : Nat) :
    (QuadraticAlgebra.omega : GammaRing i) ^ (2 * t) = algebraMap (ZMod q) (GammaRing i) (coeffMod gammas i ^ t) := by
  rw [pow_mul, sq, QuadraticAlgebra.omega_mul_omega_eq_mk, map_pow, QuadraticAlgebra.algebraMap_eq]

theorem gamma_pow (hi : i < 128) : coeffMod gammas i ^ 128 = -1 := by
  have h17 : (17 : ZMod q) ^ 128 = -1 := by decide +kernel
  rw [coeffMod, gammas_eq_pow i hi, ZMod.natCast_mod, Nat.cast_pow, ← pow_mul, Nat.mul_comm, pow_mul, Nat.cast_ofNat,
    h17, Odd.neg_one_pow ⟨_, rfl⟩]

theorem omega_pow (hi : i < 128) : (QuadraticAlgebra.omega : GammaRing i) ^ 256 = -1 := by
  rw [omega_pow_two_mul 128, gamma_pow hi, map_neg, map_one]

theorem pairAt_ntt {f : List Nat} (hf : f.length = 256) (hi : i < 128) : pairAt i (ntt f) = valueAt i f := by
  have heven : coeffMod (ntt f) (2 * i) = ∑ t ∈ Finset.range 128, coeffMod f (2 * t) * coeffMod gammas i ^ t :=
    coeffMod_ntt hf hi (j := 0) (by decide)
  have hodd := coeffMod_ntt hf hi (j := 1) (by decide)
  rw [pairAt, heven, hodd, QuadraticAlgebra.mk_eq_add_smul_omega, map_sum, Finset.sum_smul, ← Finset.sum_add_distrib,
    valueAt, sum_range_two_mul _ 128]
  refine Finset.sum_congr rfl fun t _ => ?_
  rw [pow_succ, omega_pow_two_mul, Algebra.smul_def, map_mul, map_mul, mul_assoc]

theorem pairAt_basemul {x y : List Nat} (hx : x.length = 256) (hy : y.length = 256) (hi : i < 128) :
    pairAt i (basemul x y) = pairAt i x * pairAt i y := by
  obtain ⟨heven, hodd⟩ := basemul_getD hx hy hi
  have hre : coeffMod (basemul x y) (2 * i) = coeffMod x (2 * i) * coeffMod y (2 * i) +
      coeffMod gammas i * (coeffMod x (2 * i + 1) * coeffMod y (2 * i + 1)) := by
    simp only [coeffMod, heven, ZMod.natCast_mod, Nat.cast_add, Nat.cast_mul]
  have him : coeffMod (basemul x y) (2 * i + 1) =
      coeffMod x (2 * i) * coeffMod y (2 * i + 1) + coeffMod x (2 * i + 1) * coeffMod y (2 * i) := by
    simp only [coeffMod, hodd, ZMod.natCast_mod, Nat.cast_add, Nat.cast_mul]
  rw [pairAt, hre, him, pairAt, pairAt, QuadraticAlgebra.mk_mul_mk, mul_assoc, zero_mul, zero_mul, add_zero]

theorem valueAt_negacyclic (a b : List Nat) (hi : i < 128) :
    valueAt i (negacyclic a b) = valueAt i a * valueAt i b := by
  rw [valueAt, valueAt, valueAt, ← sum_negacyclic (omega_pow hi)]
  refine Finset.sum_congr rfl fun k hk => ?_
  rw [coeffMod_negacyclic _ _ (Finset.mem_range.mp hk), map_sum]
  simp only [map_mul, apply_ite (algebraMap _ _), map_neg]

theorem coeffMod_eq_of_pairAt_eq {x y : List Nat} (h : ∀ i < 128, pairAt i x = pairAt i y) :
    ∀ c < 256, coeffMod x c = coeffMod y c := by
  intro c hc
  obtain ⟨i, rfl | rfl⟩ := Nat.even_or_odd' c
  · exact congrArg QuadraticAlgebra.re (h i (by omega))
  · exact congrArg QuadraticAlgebra.im (h i (by omega))

/-- Settles O53: both sides have the same value at every root ω. -/
theorem nttMultiplicationLaw : Obligations.NttMultiplicationLaw := by
  intro a b ha hb _ _
  have hlen : (basemul (ntt a) (ntt b)).length = 256 := basemul_length (ntt_length a ha) (ntt_length b hb)
  have hc := negacyclic_length a b
  have hpairs : ∀ i < 128, pairAt i (basemul (ntt a) (ntt b)) = pairAt i (ntt (negacyclic a b)) := by
    intro i hi
    rw [pairAt_basemul (ntt_length a ha) (ntt_length b hb) hi, pairAt_ntt ha hi, pairAt_ntt hb hi, pairAt_ntt hc hi,
      valueAt_negacyclic a b hi]
  refine eq_of_coeffMod_eq (hlen.trans (ntt_length _ hc).symm) (basemulPairs_lt _ _ _) (ntt_lt _) ?_
  rw [hlen]
  exact coeffMod_eq_of_pairAt_eq hpairs

end Sys2Proof.Machine
end

section
/-! PROOFS. `parse` (44_samplers.md R230): its loop takes the candidates of the stretch in order, those below q, until
it has 256 (O54). -/

namespace Sys2Proof.Machine

/-- The loop's list after it was shown the candidates `C` in order: those below q are appended while there is room. -/
def takeAccepted (f C : List Nat) : List Nat := f ++ (C.filter (· < q)).take (256 - f.length)

theorem takeAccepted_nil (f : List Nat) : takeAccepted f [] = f := by simp [takeAccepted]

theorem takeAccepted_full {f : List Nat} (h : ¬f.length < 256) (C : List Nat) : takeAccepted f C = f := by
  simp [takeAccepted, show 256 - f.length = 0 by omega]

theorem takeAccepted_append (f C D : List Nat) : takeAccepted f (C ++ D) = takeAccepted (takeAccepted f C) D := by
  simp only [takeAccepted, List.filter_append, List.take_append, List.append_assoc, List.length_append,
    List.length_take]
  congr 3
  omega

theorem accept_eq_takeAccepted (f : List Nat) (d : Nat) : accept f d = takeAccepted f [d] := by
  by_cases hf : f.length < 256
  · have hroom : [d].length ≤ 256 - f.length := by
      rw [List.length_singleton]
      omega
    by_cases hd : d < q
    · simp [accept, takeAccepted, hd, hf, List.take_of_length_le hroom]
    · simp [accept, takeAccepted, hd]
  · simp [accept, takeAccepted_full hf, hf]

theorem candidates_of_length_lt {S : List Byte} (h : S.length < 3) : candidates S = [] := by
  simp [candidates, Nat.div_eq_of_lt h]

/-- The candidates of the first triple come first. -/
theorem candidates_cons (b0 b1 b2 : Byte) (S : List Byte) :
    candidates (b0 :: b1 :: b2 :: S) =
      [b0.toNat + 256 * (b1.toNat % 16), b1.toNat / 16 + 16 * b2.toNat] ++ candidates S := by
  have hlen : (b0 :: b1 :: b2 :: S).length / 3 = S.length / 3 + 1 := by
    simp only [List.length_cons]
    omega
  simp only [candidates, hlen, List.range_succ_eq_map, List.flatMap_cons, List.flatMap_map]
  rfl

theorem parseLoop_eq_takeAccepted (S : List Byte) (f : List Nat) : parseLoop S f = takeAccepted f (candidates S) := by
  induction S, f using parseLoop.induct with
  | case1 b0 b1 b2 S f d1 d2 hf ih =>
    rw [parseLoop, if_pos hf, ih, accept_eq_takeAccepted, accept_eq_takeAccepted, ← takeAccepted_append,
      ← takeAccepted_append, candidates_cons]
    rfl
  | case2 b0 b1 b2 S f hf => rw [parseLoop, if_neg hf, takeAccepted_full hf]
  | case3 S f hS =>
    have hlen : S.length < 3 := by
      match S, hS with
      | [], _ | [_], _ | [_, _], _ => simp
      | b0 :: b1 :: b2 :: S, hS => exact (hS b0 b1 b2 S rfl).elim
    rw [parseLoop, candidates_of_length_lt hlen, takeAccepted_nil]
    exact hS

/-- Settles O54: from the empty list the loop takes the first 256 candidates below q, or all of them. -/
theorem parseTakesTheFirstAccepted : Obligations.ParseTakesTheFirstAccepted := by
  intro S
  have hloop : parseLoop S [] = ((candidates S).filter (· < 3329)).take 256 := parseLoop_eq_takeAccepted S []
  simp only [parse, hloop, List.length_take]
  exact if_congr (by omega) rfl rfl

theorem parse_eq_some_iff {S : List Byte} {f : List Nat} :
    parse S = some f ↔
      256 ≤ ((candidates S).filter (· < 3329)).length ∧ ((candidates S).filter (· < 3329)).take 256 = f := by
  rw [parseTakesTheFirstAccepted S]
  simp

theorem parse_length {S : List Byte} {f : List Nat} (h : parse S = some f) : f.length = 256 := by
  obtain ⟨henough, rfl⟩ := parse_eq_some_iff.mp h
  rw [List.length_take, Nat.min_eq_left henough]

theorem parse_lt {S : List Byte} {f : List Nat} (h : parse S = some f) : ∀ x ∈ f, x < 3329 := by
  obtain ⟨-, rfl⟩ := parse_eq_some_iff.mp h
  intro x hx
  simpa using (List.mem_filter.mp (List.mem_of_mem_take hx)).2

end Sys2Proof.Machine
end

section
/-! PROOFS. A rejection loop that has stopped gives the same result on every longer stretch of the stream
(44_samplers.md R233, R234; O44). -/

namespace Sys2Proof.Machine

variable {w w' : Nat}

/-- On a whole number of triples the candidates of what follows come after. -/
theorem candidates_append (S T : List Byte) (n : Nat) (h : S.length = 3 * n) :
    candidates (S ++ T) = candidates S ++ candidates T := by
  induction n generalizing S with
  | zero => simp [List.length_eq_zero_iff.mp h, candidates_of_length_lt]
  | succ n ih =>
    match S, h with
    | b0 :: b1 :: b2 :: S, h =>
      simp only [List.length_cons] at h
      simp only [List.cons_append, candidates_cons, ih S (by omega), List.append_assoc]

theorem parse_append {S : List Byte} {n : Nat} {f : List Nat} (hS : S.length = 3 * n) (h : parse S = some f)
    (T : List Byte) : parse (S ++ T) = some f := by
  obtain ⟨henough, rfl⟩ := parse_eq_some_iff.mp h
  rw [parse_eq_some_iff, candidates_append S T n hS, List.filter_append, List.length_append,
    List.take_append_of_le_length henough]
  exact ⟨by omega, rfl⟩

theorem sampleNtt_mono (hw : w ≤ w') {rhoSeed : List Byte} {b32 b33 : Byte} {f : List Nat}
    (h : sampleNtt w rhoSeed b32 b33 = some f) : sampleNtt w' rhoSeed b32 b33 = some f := by
  have hprefix : xofBytes rhoSeed b32 b33 (168 * w) = (xofBytes rhoSeed b32 b33 (168 * w')).take (168 * w) :=
    (xofOutputIsAStream rhoSeed b32 b33 _ _).2 (Nat.mul_le_mul_left 168 hw)
  have hlen : (xofBytes rhoSeed b32 b33 (168 * w)).length = 3 * (56 * w) := by
    rw [xofBytes_length]
    omega
  have happend := parse_append hlen h ((xofBytes rhoSeed b32 b33 (168 * w')).drop (168 * w))
  rwa [hprefix, List.take_append_drop] at happend

/-- If each part that is there in one list is the same in the other, so is the whole. -/
theorem allSome_map_mono {α β : Type} {x y : α → Option β} (h : ∀ a b, x a = some b → y a = some b) (l : List α) :
    ∀ r, allSome (l.map x) = some r → allSome (l.map y) = some r := by
  induction l with
  | nil => exact fun _ hr => hr
  | cons a l ih =>
    intro r hr
    rw [List.map_cons] at hr ⊢
    cases ha : x a with
    | none => simp [ha, allSome] at hr
    | some b =>
      cases hl : allSome (l.map x) with
      | none => simp [ha, hl, allSome] at hr
      | some bs => simpa [ha, hl, h a b ha, ih bs hl, allSome] using hr

theorem genMatrix_mono (hw : w ≤ w') {rhoSeed : List Byte} {A : List (List (List Nat))}
    (h : genMatrix w rhoSeed = some A) : genMatrix w' rhoSeed = some A :=
  allSome_map_mono (fun _ => allSome_map_mono (fun _ _ => sampleNtt_mono hw) _) _ A h

theorem keyGen_mono (hw : w ≤ w') {d z : List Byte} {r : List Byte × List Byte} (h : keyGen w d z = some r) :
    keyGen w' d z = some r := by
  simp only [keyGen] at h ⊢
  split at h
  · cases h
  · next hA => simpa only [genMatrix_mono hw hA] using h

theorem encrypt_mono (hw : w ≤ w') {pk m r ct : List Byte} (h : encrypt w pk m r = some ct) :
    encrypt w' pk m r = some ct := by
  simp only [encrypt] at h ⊢
  split at h
  · cases h
  · next hA => simpa only [genMatrix_mono hw hA] using h

theorem encapsulate_mono (hw : w ≤ w') {pk m : List Byte} {r : List Byte × List Byte}
    (h : encapsulate w pk m = some r) : encapsulate w' pk m = some r := by
  simp only [encapsulate] at h ⊢
  split at h
  · cases h
  · next hct => simpa only [encrypt_mono hw hct] using h

theorem decapsulate_mono (hw : w ≤ w') {rh : RejectHash} {sk ct r : List Byte}
    (h : decapsulate rh w sk ct = some r) : decapsulate rh w' sk ct = some r := by
  simp only [decapsulate] at h ⊢
  split at h
  · cases h
  · next hct => simpa only [encrypt_mono hw hct] using h

/-- Settles O44: a shorter stretch is the front of a longer one, and holds a whole number of triples. -/
theorem resultsDoNotDependOnTheWindow : Obligations.ResultsDoNotDependOnTheWindow := fun _ _ hw =>
  ⟨fun _ _ _ _ => sampleNtt_mono hw, fun _ _ _ => keyGen_mono hw, fun _ _ _ => encapsulate_mono hw,
    fun _ _ _ _ => decapsulate_mono hw⟩

theorem isSome_mono {α : Type} {x y : Option α} (h : ∀ a, x = some a → y = some a) (hx : x.isSome = true) :
    y.isSome = true :=
  Option.isSome_iff_exists.mpr ((Option.isSome_iff_exists.mp hx).imp h)

/-- Loops that have stopped have stopped on every longer stretch. -/
theorem loopsStopped_mono (hw : w ≤ w') {i : Instr} {s : State} (h : loopsStopped w i s = true) :
    loopsStopped w' i s = true := by
  cases i
  case samplentt => exact isSome_mono (fun _ => sampleNtt_mono hw) h
  case keygen => exact isSome_mono (fun _ => keyGen_mono hw) h
  case encaps => exact isSome_mono (fun _ => encapsulate_mono hw) h
  case decaps => exact isSome_mono (fun _ => decapsulate_mono hw) h
  all_goals rfl

end Sys2Proof.Machine
end

section
/-! PROOFS. CBD2 and SAMPLENTT (44_samplers.md R220, R221, R231, R232; O34, O35). -/

namespace Sys2Proof.Machine

/-- The difference of two sums of two bits modulo q, as `cbdNibble` computes it. -/
def centered (x y z w : Bool) : Nat := (((x.toNat + y.toNat : Int) - (z.toNat + w.toNat)) % 3329).toNat

theorem centered_mem : ∀ x y z w : Bool, centered x y z w ∈ [0, 1, 2, 3327, 3328] := by decide

theorem centered_cast (x y z w : Bool) :
    (centered x y z w : Int) = ((x.toNat + y.toNat : Int) - (z.toNat + w.toNat)) % 3329 :=
  Int.toNat_of_nonneg (Int.emod_nonneg _ (by decide))

theorem cbdNibble_eq_centered (b : Byte) (h : Nat) :
    cbdNibble b h =
      centered (b.getLsbD (4 * h)) (b.getLsbD (4 * h + 1)) (b.getLsbD (4 * h + 2)) (b.getLsbD (4 * h + 3)) := by
  simp only [cbdNibble, centered, bitNat, Nat.cast_add]
  rfl

/-- Byte `m` gives the coefficients `2 * m` and `2 * m + 1`. -/
theorem cbd2_getD {B : List Byte} {m h : Nat} (hm : m < B.length) (hh : h < 2) :
    (cbd2 B).getD (2 * m + h) 0 = cbdNibble (B.getD m 0) h := by
  induction B generalizing m with
  | nil => exact absurd hm (Nat.not_lt_zero m)
  | cons b B ih =>
    have hcons : cbd2 (b :: B) = cbdNibble b 0 :: cbdNibble b 1 :: cbd2 B := rfl
    rw [hcons]
    cases m with
    | zero =>
      obtain rfl | rfl : h = 0 ∨ h = 1 := by omega
      · rfl
      · rfl
    | succ m =>
      rw [show 2 * (m + 1) + h = 2 * m + h + 1 + 1 by omega]
      exact ih (Nat.lt_of_succ_lt_succ hm)

/-- Coefficient `i` of the sample from bits 4i to 4i + 3 of the stream. -/
theorem cbd2_getD_eq_centered {B : List Byte} {i : Nat} (hi : i < 2 * B.length) :
    (cbd2 B).getD i 0 = centered (streamBit B (4 * i)) (streamBit B (4 * i + 1)) (streamBit B (4 * i + 2))
      (streamBit B (4 * i + 3)) := by
  have hbit (j : Nat) (hj : j < 4) : streamBit B (4 * i + j) = (B.getD (i / 2) 0).getLsbD (4 * (i % 2) + j) := by
    rw [streamBit, show (4 * i + j) / 8 = i / 2 by omega, show (4 * i + j) % 8 = 4 * (i % 2) + j by omega]
  have hcoeff := cbd2_getD (B := B) (m := i / 2) (h := i % 2) (by omega) (by omega)
  rw [Nat.div_add_mod, cbdNibble_eq_centered] at hcoeff
  rw [hcoeff, hbit 1 (by decide), hbit 2 (by decide), hbit 3 (by decide)]
  exact congrArg (centered · _ _ _) (hbit 0 (by decide)).symm

theorem cbdNibble_lt (b : Byte) (h : Nat) : cbdNibble b h < q :=
  (Int.toNat_lt_of_ne_zero (by decide)).mpr (Int.emod_lt_of_pos _ (by decide))

theorem cbd2_lt (B : List Byte) : ∀ x ∈ cbd2 B, x < q := by
  intro x hx
  obtain ⟨b, -, hxb⟩ := List.mem_flatMap.mp hx
  obtain rfl | rfl : x = cbdNibble b 0 ∨ x = cbdNibble b 1 := by simpa using hxb
  · exact cbdNibble_lt b 0
  · exact cbdNibble_lt b 1

/-- Settles O34: each coefficient is the centered difference of its four bits, and the effect is one write of `cbd2`. -/
theorem cbd2Completes : Obligations.Cbd2Completes := by
  refine ⟨fun B hB => ⟨by rw [cbd2_length, hB], fun i hi => ?_⟩, fun s d src hw hr => ?_⟩
  · rw [cbd2_getD_eq_centered (by omega)]
    exact ⟨centered_cast _ _ _ _, centered_mem _ _ _ _⟩
  · have hexec : exec (.cbd2 d src) s = runCommand (.cbd2 d src) (memToPreg 128 cbd2 d src) s := rfl
    exact exec_setPreg_completes hexec hw hr rfl (by simp [cbd2_length]) (lt_cell_of_lt_q (cbd2_lt _))

/-- SAMPLENTT writes what `SampleNTT` gives, once it gives a result. -/
theorem exec_samplentt (s : State) (d rhoAt idx : Word) :
    exec (.samplentt d rhoAt idx) s = runCommand (.samplentt d rhoAt idx)
      (fun s => (sampleNtt s.windows (s.readBytes rhoAt.toNat 32) (idxFirst idx) (idxSecond idx)).map
        fun f => s.setPreg d.toNat (Poly.ofCoeffs f)) s := by
  rw [exec, execSamplentt]
  congr 1
  funext s
  cases sampleNtt s.windows (s.readBytes rhoAt.toNat 32) (idxFirst idx) (idxSecond idx) <;> rfl

/-- Settles O35: the effect is one write of what `parse` gives, which has 256 entries below q. -/
theorem samplenttCompletes : Obligations.SamplenttCompletes := by
  intro s d rhoAt idx f hw hr hparse
  have hsample : sampleNtt s.windows (s.readBytes rhoAt.toNat 32) (idxFirst idx) (idxSecond idx) = some f := by
    rw [idxFirst_eq, idxSecond_eq]
    exact hparse
  obtain ⟨t, hexec, hframe, hpreg⟩ := exec_setPreg_completes (exec_samplentt s d rhoAt idx) hw hr
    (by rw [hsample, Option.map_some]) (parse_length hparse) (lt_cell_of_lt_q (parse_lt hparse))
  exact ⟨t, hexec, hframe, hpreg, parse_length hparse, parse_lt hparse⟩

end Sys2Proof.Machine
end

section
/-! PROOFS. When a command completes: in the engine turn that finds its rejection loops stopped, which comes after at
most as many turns as windows are needed (44_samplers.md R233, 70_reset_and_hazards.md R395; O42, O43). -/

namespace Sys2Proof.Machine

variable {i : Instr} {s t : State}

/-- The command of `s` has completed without an error in `t`. -/
def State.CompletedIn (s t : State) : Prop :=
  t.pending = none ∧ t.done = true ∧ t.err = s.err ∧ t.errcode = s.errcode

/-- An accepted command reports no error, whether it completes in this turn or not. -/
theorem exec_keeps_err (hc : check s.params i = none) (h : exec i s = .next t) :
    t.err = s.err ∧ t.errcode = s.errcode := by
  obtain ⟨effect, hexec, heffect⟩ := command_writesOutputsOnly i
  rw [hexec] at h
  obtain ⟨e, he, -⟩ | ⟨-, -, rfl⟩ | ⟨-, -, -, rfl⟩ | ⟨-, -, u, hu, rfl⟩ := runCommand_cases h
  · rw [hc] at he
    cases he
  · exact ⟨rfl, rfl⟩
  · rw [s.raceOutcome_frame i]
    exact ⟨rfl, rfl⟩
  · have hframe := heffect hu
    rw [State.OnlyOutputs] at hframe
    rw [hframe]
    exact ⟨rfl, rfl⟩

/-- An accepted command whose loops are still running stays pending. -/
theorem exec_running (hc : check s.params i = none) (hrun : loopsStopped s.windows i s = false) :
    exec i s = .next s.notYet := by
  obtain ⟨effect, hexec, hready⟩ := command_ready i
  rw [hexec, runCommand_running hc (Option.not_isSome_iff_eq_none.mp (by simp [hready, hrun]))]

/-- An accepted command whose loops have stopped completes, raced on or not. -/
theorem exec_stopped (hc : check s.params i = none) (hstop : loopsStopped s.windows i s = true) :
    ∃ t, exec i s = .next t ∧ s.CompletedIn t := by
  by_cases hr : s.races = []
  · obtain ⟨effect, hexec, hready⟩ := command_ready i
    obtain ⟨u, hu⟩ := Option.isSome_iff_exists.mp ((hready s).trans hstop)
    have hnext : exec i s = .next u.completeOk := (hexec s).trans (runCommand_completed hc hr hu)
    exact ⟨_, hnext, rfl, rfl, exec_keeps_err hc hnext⟩
  · refine ⟨_, exec_raced hc hr hstop, ?_⟩
    rw [State.CompletedIn, s.raceOutcome_frame i]
    exact ⟨rfl, rfl, rfl, rfl⟩

/-- Settles O42: a raced command completes by its race outcome, an unraced one with its effect, which is ready exactly
where the loops have stopped. -/
theorem onlyRejectionLoopsDelayCompletion : Obligations.OnlyRejectionLoopsDelayCompletion := by
  intro i s hwf
  have hc := (Laws.check_none_iff_wellFormed s.params i).mpr hwf
  cases hstop : loopsStopped s.windows i s with
  | true =>
    obtain ⟨t, hexec, ht⟩ := exec_stopped hc hstop
    exact ⟨t, hexec, ht⟩
  | false => exact ⟨_, exec_running hc hstop, rfl⟩

/-! ### Turn after turn -/

/-- A turn that finds a loop running looks at one window more the next time. -/
theorem State.windows_notYet {c : Command} (hf : s.fetch = some c) : s.notYet.windows = s.windows + 1 := by
  obtain ⟨p, hp, -⟩ := Option.map_eq_some_iff.mp hf
  simp only [State.windows, State.notYet_pending, hp, Option.map_some]
  omega

/-- The stretches that the loops read are cut from MEM, which a turn that finds a loop running leaves as it is. -/
theorem loopsStopped_notYet (w : Nat) (i : Instr) (s : State) : loopsStopped w i s.notYet = loopsStopped w i s := by
  cases i <;> rfl

theorem step_command {c : Command} (hs : s.agenda = []) (hf : s.fetch = some c) (hd : decodeCommand c = .ok i) :
    step s = exec i s :=
  (step_of_nil hs).trans (engineStep_command hf hd)

/-- Loops that stop within `n` windows more than the next turn looks at: the command completes within `n` turns after
that one. -/
theorem core_run_completes {c : Command} {w : Nat} (n : Nat) (hs : s.agenda = []) (hf : s.fetch = some c)
    (hd : decodeCommand c = .ok i) (hc : check s.params i = none) (hw : w ≤ s.windows + n)
    (hstop : loopsStopped w i s = true) :
    ∃ k t, k ≤ n + 1 ∧ core.run k s = .next t ∧ s.CompletedIn t := by
  induction n generalizing s with
  | zero =>
    obtain ⟨t, hexec, ht⟩ := exec_stopped hc (loopsStopped_mono hw hstop)
    exact ⟨1, t, le_rfl, (core_run_one s).trans ((step_command hs hf hd).trans hexec), ht⟩
  | succ n ih =>
    cases hnow : loopsStopped s.windows i s with
    | true =>
      obtain ⟨t, hexec, ht⟩ := exec_stopped hc hnow
      exact ⟨1, t, by omega, (core_run_one s).trans ((step_command hs hf hd).trans hexec), ht⟩
    | false =>
      have hstep : step s = .next s.notYet := (step_command hs hf hd).trans (exec_running hc hnow)
      have hwindows := State.windows_notYet hf
      obtain ⟨k, t, hk, hrun, ht⟩ := ih (s := s.notYet) hs (s.fetch_notYet.trans hf) hc (by omega)
        ((loopsStopped_notYet w i s).trans hstop)
      exact ⟨k + 1, t, by omega, (core_run_succ hstep).trans hrun, ht⟩

/-- Settles O43: every turn that finds a loop running adds a window, so at most `w` turns come before the last. -/
theorem stoppedLoopsComplete : Obligations.StoppedLoopsComplete := by
  intro s c i w hs hf hd hwf hstop
  have hc := (Laws.check_none_iff_wellFormed s.params i).mpr hwf
  exact core_run_completes w hs hf hd hc (Nat.le_add_left w s.windows) hstop

end Sys2Proof.Machine
end

section
/-! PROOFS. The codec as bit streams (45_codec.md R250, R251): which stream bit is which bit of a value, the
round trips, and a byte by the one or two values it is cut from. -/

namespace Sys2Proof.Machine

variable {d n : Nat}

/-! ### Numbers from bits -/

@[simp] theorem bitsOf_length (d v : Nat) : (bitsOf d v).length = d := by simp [bitsOf]

theorem ofBits_testBit (bs : List Bool) (j : Nat) : (ofBits bs).testBit j = bs.getD j false := by
  induction bs generalizing j with
  | nil => exact Nat.zero_testBit j
  | cons b bs ih =>
    have hb := Bool.toNat_lt b
    cases j with
    | zero =>
      rw [ofBits, Nat.testBit_zero, Nat.add_mul_mod_self_left, List.getD_cons_zero]
      cases b <;> rfl
    | succ j =>
      rw [ofBits, Nat.testBit_succ, Nat.add_mul_div_left _ _ (by decide), Nat.div_eq_of_lt hb, Nat.zero_add, ih,
        List.getD_cons_succ]

theorem ofBits_take_lt (d : Nat) (bs : List Bool) : ofBits (bs.take d) < 2 ^ d := by
  refine Nat.lt_pow_two_of_testBit _ fun j hj => ?_
  rw [ofBits_testBit, List.getD_eq_default _ _ ((List.length_take_le d bs).trans hj)]

theorem ofBits_take_eq_sum (d : Nat) (bs : List Bool) :
    ofBits (bs.take d) = ∑ j ∈ Finset.range d, (bs.getD j false).toNat * 2 ^ j := by
  induction d generalizing bs with
  | zero => rfl
  | succ d ih =>
    cases bs with
    | nil => simp [ofBits]
    | cons b bs =>
      rw [List.take_succ_cons, ofBits, ih, Finset.sum_range_succ', Finset.mul_sum, Nat.add_comm]
      refine congrArg₂ _ (Finset.sum_congr rfl fun j _ => ?_) (Nat.mul_one _).symm
      rw [List.getD_cons_succ, Nat.pow_succ]
      ring

/-- Value `i` of a stream cut into values of `d` bits. -/
theorem cut_getD {i : Nat} (hi : i < n) (bs : List Bool) :
    (cut d n bs).getD i 0 = ofBits ((bs.drop (i * d)).take d) := by
  induction n generalizing i bs with
  | zero => exact absurd hi (Nat.not_lt_zero i)
  | succ n ih =>
    cases i with
    | zero => simp [cut]
    | succ i =>
      rw [cut, List.getD_cons_succ, ih (Nat.lt_of_succ_lt_succ hi), List.drop_drop, Nat.succ_mul, Nat.add_comm]

theorem cut_getD_eq_sum {i : Nat} (hi : i < n) (bs : List Bool) :
    (cut d n bs).getD i 0 = ∑ j ∈ Finset.range d, (bs.getD (i * d + j) false).toNat * 2 ^ j := by
  rw [cut_getD hi, ofBits_take_eq_sum]
  simp [List.getD_eq_getElem?_getD]

theorem cut_testBit {i j : Nat} (hi : i < n) (hj : j < d) (bs : List Bool) :
    ((cut d n bs).getD i 0).testBit j = bs.getD (i * d + j) false := by
  rw [cut_getD hi, ofBits_testBit]
  simp [List.getD_eq_getElem?_getD, hj]

/-- Stream bit `n` of values of `d` bits each, false past the end. -/
theorem getD_flatMap_bitsOf (hd : 0 < d) (F : List Nat) (n : Nat) :
    (F.flatMap (bitsOf d)).getD n false = (F.getD (n / d) 0).testBit (n % d) := by
  induction F generalizing n with
  | nil => simp
  | cons v F ih =>
    rw [List.flatMap_cons]
    by_cases hn : n < d
    · rw [List.getD_append _ _ _ _ (by rwa [bitsOf_length]), bitsOf, getD_map_range _ _ hn, Nat.div_eq_of_lt hn,
        Nat.mod_eq_of_lt hn, List.getD_cons_zero]
    · have hle : d ≤ n := Nat.le_of_not_lt hn
      rw [List.getD_append_right _ _ _ _ (by rwa [bitsOf_length]), bitsOf_length, ih, Nat.div_eq_sub_div hd hle,
        Nat.mod_eq_sub_mod hle, List.getD_cons_succ]

/-! ### ByteEncode and ByteDecode bit by bit -/

theorem getD_flatMap_bytes (B : List Byte) (n : Nat) :
    (B.flatMap fun b => bitsOf 8 b.toNat).getD n false = streamBit B n := by
  rw [← List.flatMap_map, getD_flatMap_bitsOf (by decide)]
  exact congrArg (Nat.testBit · _) (List.getD_map (l := B) 0 BitVec.toNat)

theorem cut_lt (d n : Nat) (bs : List Bool) : ∀ x ∈ cut d n bs, x < 2 ^ d := by
  induction n generalizing bs with
  | zero => simp [cut]
  | succ n ih => exact List.forall_mem_cons.mpr ⟨ofBits_take_lt d bs, ih _⟩

theorem getD_lt {F : List Nat} {b : Nat} (hb : 0 < b) (hF : ∀ x ∈ F, x < b) (i : Nat) : F.getD i 0 < b := by
  by_cases hi : i < F.length
  · rw [List.getD_eq_getElem _ _ hi]
    exact hF _ (List.getElem_mem hi)
  · rwa [List.getD_eq_default _ _ (Nat.le_of_not_lt hi)]

theorem toNat_byteEncode_getD (d : Nat) (F : List Nat) (k : Nat) :
    ((byteEncode d F).getD k 0).toNat = (cut 8 (32 * d) (F.flatMap (bitsOf d))).getD k 0 := by
  have hbyte := List.getD_map (l := cut 8 (32 * d) (F.flatMap (bitsOf d))) (n := k) 0 (BitVec.ofNat 8)
  refine (congrArg BitVec.toNat hbyte).trans (Nat.mod_eq_of_lt ?_)
  exact getD_lt (by decide) (cut_lt 8 _ _) k

/-- Bit `j` of byte `k` is bit `r` of value `i`, where they are the same stream bit. -/
theorem byteEncode_testBit {k j i r : Nat} (F : List Nat) (hk : k < 32 * d) (hj : j < 8) (h : 8 * k + j = i * d + r)
    (hr : r < d) : ((byteEncode d F).getD k 0).toNat.testBit j = (F.getD i 0).testBit r := by
  have hd : 0 < d := Nat.zero_lt_of_lt hr
  have hpos : r + d * i = 8 * k + j := by rw [h, Nat.mul_comm, Nat.add_comm]
  obtain ⟨hdiv, hmod⟩ := (Nat.div_mod_unique hd).mpr ⟨hpos, hr⟩
  rw [toNat_byteEncode_getD, cut_testBit hk hj, getD_flatMap_bitsOf hd, Nat.mul_comm k, hdiv, hmod]

theorem streamBit_byteEncode {i r : Nat} (F : List Nat) (hi : i < 256) (hr : r < d) :
    streamBit (byteEncode d F) (i * d + r) = (F.getD i 0).testBit r := by
  have hin : i * d + r < 256 * d := by
    have hblock : (i + 1) * d ≤ 256 * d := Nat.mul_le_mul_right d hi
    rw [Nat.succ_mul] at hblock
    omega
  rw [streamBit, ← BitVec.testBit_toNat]
  exact byteEncode_testBit F (by omega) (Nat.mod_lt _ (by decide)) (Nat.div_add_mod _ 8) hr

theorem byteDecode_lt (d : Nat) (B : List Byte) : ∀ x ∈ byteDecode d B, x < 2 ^ d := cut_lt d 256 _

theorem byteDecode_testBit {i j : Nat} (B : List Byte) (hi : i < 256) (hj : j < d) :
    ((byteDecode d B).getD i 0).testBit j = streamBit B (i * d + j) := by
  rw [byteDecode, cut_testBit hi hj, getD_flatMap_bytes]

theorem byteDecode_getD (d : Nat) (B : List Byte) {i : Nat} (hi : i < 256) :
    (byteDecode d B).getD i 0 = ∑ j ∈ Finset.range d, (streamBit B (i * d + j)).toNat * 2 ^ j := by
  simp only [byteDecode, cut_getD_eq_sum hi, getD_flatMap_bytes]

/-! ### The round trips -/

theorem eq_of_testBit_eq_below {v w : Nat} (hv : v < 2 ^ d) (hw : w < 2 ^ d)
    (h : ∀ j < d, v.testBit j = w.testBit j) : v = w := by
  refine Nat.eq_of_testBit_eq fun j => ?_
  by_cases hj : j < d
  · exact h j hj
  · have hpow : 2 ^ d ≤ 2 ^ j := Nat.pow_le_pow_right (by decide) (Nat.le_of_not_lt hj)
    rw [Nat.testBit_lt_two_pow (hv.trans_le hpow), Nat.testBit_lt_two_pow (hw.trans_le hpow)]

theorem byteDecode_byteEncode {F : List Nat} (hlen : F.length = 256) (hF : ∀ x ∈ F, x < 2 ^ d) :
    byteDecode d (byteEncode d F) = F := by
  refine List.ext_getElem (by simp [hlen]) fun i hi hi' => ?_
  rw [← List.getD_eq_getElem _ 0 hi, ← List.getD_eq_getElem _ 0 hi']
  rw [byteDecode_length] at hi
  have hpos := Nat.two_pow_pos d
  refine eq_of_testBit_eq_below (getD_lt hpos (byteDecode_lt d _) i) (getD_lt hpos hF i) fun j hj => ?_
  rw [byteDecode_testBit _ hi hj, streamBit_byteEncode F hi hj]

theorem byteEncode_byteDecode (hd : 0 < d) {B : List Byte} (hB : B.length = 32 * d) :
    byteEncode d (byteDecode d B) = B := by
  refine ext_getD (byteEncode_length d _) hB fun k hk => BitVec.eq_of_getLsbD_eq fun j hj => ?_
  have hi : (8 * k + j) / d < 256 := (Nat.div_lt_iff_lt_mul hd).mpr (by omega)
  have hr := Nat.mod_lt (8 * k + j) hd
  rw [← BitVec.testBit_toNat, byteEncode_testBit _ hk hj (Nat.div_add_mod' _ d).symm hr, byteDecode_testBit B hi hr,
    Nat.div_add_mod', streamBit, Nat.mul_add_div (by decide), Nat.mul_add_mod, Nat.div_eq_of_lt hj,
    Nat.mod_eq_of_lt hj, Nat.add_zero]

/-! ### The bytes of a group -/

section

variable {F : List Nat} {k i r s : Nat}

theorem shiftRight_lt_two_pow {v : Nat} (h : v < 2 ^ (r + s)) : v >>> r < 2 ^ s := by
  rw [Nat.shiftRight_eq_div_pow]
  exact Nat.div_lt_of_lt_mul (by rwa [← Nat.pow_add])

/-- A byte inside one value. -/
theorem byteEncode_toNat_of_le (F : List Nat) (hk : k < 32 * d) (hstart : 8 * k = i * d + r) (hend : r + 8 ≤ d) :
    ((byteEncode d F).getD k 0).toNat = F.getD i 0 >>> r &&& (2 ^ 8 - 1) := by
  rw [Nat.and_two_pow_sub_one_eq_mod]
  refine eq_of_testBit_eq_below (BitVec.isLt _) (Nat.mod_lt _ (by decide)) fun j hj => ?_
  rw [byteEncode_testBit F hk hj (i := i) (r := r + j) (by omega) (by omega), Nat.testBit_mod_two_pow,
    decide_eq_true hj, Bool.true_and, Nat.testBit_shiftRight]

/-- A byte at the end of one value. -/
theorem byteEncode_toNat_of_end (hF : ∀ x ∈ F, x < 2 ^ (r + 8)) (hk : k < 32 * (r + 8))
    (hstart : 8 * k = i * (r + 8) + r) : ((byteEncode (r + 8) F).getD k 0).toNat = F.getD i 0 >>> r := by
  rw [byteEncode_toNat_of_le F hk hstart le_rfl, Nat.and_two_pow_sub_one_eq_mod]
  exact Nat.mod_eq_of_lt (shiftRight_lt_two_pow (getD_lt (Nat.two_pow_pos _) hF i))

/-- A byte across the end of one value: the upper `s` bits of it, and above them the low bits of the next one. -/
theorem byteEncode_toNat_of_straddle (hF : ∀ x ∈ F, x < 2 ^ (r + s)) (hk : k < 32 * (r + s))
    (hstart : 8 * k = i * (r + s) + r) (hs : s ≤ 8) (hend : 8 ≤ s + (r + s)) :
    ((byteEncode (r + s) F).getD k 0).toNat =
      F.getD i 0 >>> r ||| (F.getD (i + 1) 0 &&& (2 ^ (8 - s) - 1)) <<< s := by
  have hv : F.getD i 0 < 2 ^ (r + s) := getD_lt (Nat.two_pow_pos _) hF i
  have hnext : (i + 1) * (r + s) = i * (r + s) + (r + s) := Nat.succ_mul i _
  rw [Nat.and_two_pow_sub_one_eq_mod]
  refine Nat.eq_of_testBit_eq fun j => ?_
  rw [Nat.testBit_or, Nat.testBit_shiftRight, Nat.testBit_shiftLeft, Nat.testBit_mod_two_pow]
  by_cases hjs : j < s
  · rw [byteEncode_testBit F hk (by omega) (i := i) (r := r + j) (by omega) (by omega)]
    simp [hjs]
  · have hout : (F.getD i 0).testBit (r + j) = false :=
      Nat.testBit_lt_two_pow (hv.trans_le (Nat.pow_le_pow_right (by decide) (by omega)))
    rw [hout, Bool.false_or, decide_eq_true (by omega : j ≥ s), Bool.true_and]
    by_cases hj : j < 8
    · rw [byteEncode_testBit F hk hj (i := i + 1) (r := j - s) (by omega) (by omega),
        decide_eq_true (by omega : j - s < 8 - s), Bool.true_and]
    · rw [BitVec.testBit_toNat, BitVec.getLsbD_of_ge _ _ (by omega), decide_eq_false (by omega), Bool.false_and]

end

end Sys2Proof.Machine
end

section
/-! PROOFS. ByteEncode bit by bit, and the byte formulas per group (45_codec.md R250; O55). -/

namespace Sys2Proof.Machine

variable {F : List Nat} {g : Nat}

theorem byteEncode_12_group (hF : ∀ x ∈ F, x < 2 ^ 12) (hg : g < 128) :
    ((byteEncode 12 F).getD (3 * g) 0).toNat = F.getD (2 * g) 0 &&& 0xFF ∧
    ((byteEncode 12 F).getD (3 * g + 1) 0).toNat =
      (F.getD (2 * g) 0 >>> 8) ||| ((F.getD (2 * g + 1) 0 &&& 0xF) <<< 4) ∧
    ((byteEncode 12 F).getD (3 * g + 2) 0).toNat = F.getD (2 * g + 1) 0 >>> 4 :=
  ⟨byteEncode_toNat_of_le F (r := 0) (by omega) (by omega) (by decide),
    byteEncode_toNat_of_straddle (r := 8) (s := 4) hF (by omega) (by omega) (by decide) (by decide),
    byteEncode_toNat_of_end (r := 4) hF (by omega) (by omega)⟩

theorem byteEncode_10_group (hF : ∀ x ∈ F, x < 2 ^ 10) (hg : g < 64) :
    ((byteEncode 10 F).getD (5 * g) 0).toNat = F.getD (4 * g) 0 &&& 0xFF ∧
    ((byteEncode 10 F).getD (5 * g + 1) 0).toNat =
      (F.getD (4 * g) 0 >>> 8) ||| ((F.getD (4 * g + 1) 0 &&& 0x3F) <<< 2) ∧
    ((byteEncode 10 F).getD (5 * g + 2) 0).toNat =
      (F.getD (4 * g + 1) 0 >>> 6) ||| ((F.getD (4 * g + 2) 0 &&& 0xF) <<< 4) ∧
    ((byteEncode 10 F).getD (5 * g + 3) 0).toNat =
      (F.getD (4 * g + 2) 0 >>> 4) ||| ((F.getD (4 * g + 3) 0 &&& 0x3) <<< 6) ∧
    ((byteEncode 10 F).getD (5 * g + 4) 0).toNat = F.getD (4 * g + 3) 0 >>> 2 :=
  ⟨byteEncode_toNat_of_le F (r := 0) (by omega) (by omega) (by decide),
    byteEncode_toNat_of_straddle (r := 8) (s := 2) hF (by omega) (by omega) (by decide) (by decide),
    byteEncode_toNat_of_straddle (r := 6) (s := 4) hF (by omega) (by omega) (by decide) (by decide),
    byteEncode_toNat_of_straddle (r := 4) (s := 6) hF (by omega) (by omega) (by decide) (by decide),
    byteEncode_toNat_of_end (r := 2) hF (by omega) (by omega)⟩

theorem byteEncode_4_group (hF : ∀ x ∈ F, x < 2 ^ 4) (hg : g < 128) :
    ((byteEncode 4 F).getD g 0).toNat = F.getD (2 * g) 0 ||| (F.getD (2 * g + 1) 0 <<< 4) := by
  have hhigh : F.getD (2 * g + 1) 0 &&& (2 ^ 4 - 1) = F.getD (2 * g + 1) 0 :=
    Nat.and_two_pow_sub_one_of_lt_two_pow (getD_lt (by decide) hF _)
  have hbyte := byteEncode_toNat_of_straddle (r := 0) (s := 4) (k := g) (i := 2 * g) hF (by omega) (by omega)
    (by decide) (by decide)
  rwa [hhigh] at hbyte

theorem testBit_zero_toNat_of_lt_two {v : Nat} (hv : v < 2) : (v.testBit 0).toNat = v := by
  obtain rfl | rfl : v = 0 ∨ v = 1 := by omega
  · rfl
  · rfl

theorem byteEncode_1_group (hF : ∀ x ∈ F, x < 2) (hg : g < 32) :
    ((byteEncode 1 F).getD g 0).toNat = ∑ j ∈ Finset.range 8, F.getD (8 * g + j) 0 <<< j := by
  rw [toNat_byteEncode_getD, cut_getD_eq_sum (by omega)]
  refine Finset.sum_congr rfl fun j _ => ?_
  rw [getD_flatMap_bitsOf (by decide), Nat.div_one, Nat.mod_one,
    testBit_zero_toNat_of_lt_two (getD_lt (by decide) hF _), Nat.mul_comm g, Nat.shiftLeft_eq]

/-- Settles O55: a stream bit is a bit of one value, and a byte of a group holds eight of them. -/
theorem byteEncodeLayout : Obligations.ByteEncodeLayout := by
  refine ⟨fun d F hd _ _ => ⟨byteEncode_length d F, fun n hn => ?_⟩, fun F _ hF g hg => byteEncode_12_group hF hg,
    fun F _ hF g hg => byteEncode_10_group hF hg, fun F _ hF g hg => byteEncode_4_group hF hg,
    fun F _ hF g hg => byteEncode_1_group hF hg⟩
  have hpos : 0 < d := by omega
  have hbit := streamBit_byteEncode F ((Nat.div_lt_iff_lt_mul hpos).mpr hn) (Nat.mod_lt n hpos)
  rwa [Nat.div_add_mod'] at hbit

end Sys2Proof.Machine
end

section
/-! PROOFS. Compress and Decompress round to the nearest integer (45_codec.md R252, R253; O57), and how far a
value is from its decompressed compression, with the other laws of the codec (R251, R257; O56). -/

namespace Sys2Proof.Machine

variable {d x y : Nat}

theorem compress_eq_nearest_mod (d x : Nat) : ∃ n, compress d x = n % 2 ^ d ∧
    2 * (x * 2 ^ d) < 2 * n * 3329 + 3329 ∧ 2 * n * 3329 < 2 * (x * 2 ^ d) + 3329 :=
  ⟨(x * 2 ^ d + 1664) / 3329, rfl, by omega, by omega⟩

theorem decompress_nearest (hd : 0 < d) (y : Nat) :
    2 * (y * 3329) < 2 * decompress d y * 2 ^ d + 2 ^ d ∧ 2 * decompress d y * 2 ^ d ≤ 2 * (y * 3329) + 2 ^ d := by
  have hhalf : 2 * 2 ^ (d - 1) = 2 ^ d := by rw [← Nat.pow_succ', Nat.succ_eq_add_one, Nat.sub_add_cancel hd]
  have hdiv : 2 ^ d * decompress d y + (y * 3329 + 2 ^ (d - 1)) % 2 ^ d = y * 3329 + 2 ^ (d - 1) := Nat.div_add_mod _ _
  have hrem := Nat.mod_lt (y * 3329 + 2 ^ (d - 1)) (Nat.two_pow_pos d)
  rw [Nat.mul_assoc, Nat.mul_comm (decompress d y)]
  omega

theorem decompress_mono (h : x ≤ y) : decompress d x ≤ decompress d y :=
  Nat.div_le_div_right (Nat.add_le_add_right (Nat.mul_le_mul_right _ h) _)

theorem decompress_le_last (hy : y < 2 ^ d) : decompress d y ≤ decompress d (2 ^ d - 1) :=
  decompress_mono (Nat.le_sub_one_of_lt hy)

/-- Settles O57: the quotient of each function is within half a divisor of the exact value. -/
theorem compressionRounds : Obligations.CompressionRounds := by
  intro d hd
  refine ⟨fun x _ => compress_eq_nearest_mod d x, fun y hy => ?_, rfl, rfl, rfl⟩
  obtain ⟨hlow, hhigh⟩ := decompress_nearest (by omega : 0 < d) y
  exact ⟨hlow, hhigh, decompress_le_last hy⟩

/-! ### The error bound -/

theorem nearModQ_of_le {b : Nat} (h : y ≤ x + b) (h' : x ≤ y + b) : nearModQ x y b := by
  change ((y : Int) - x) % 3329 ≤ b ∨ ((x : Int) - y) % 3329 ≤ b
  omega

theorem nearModQ_zero_of_le {b : Nat} (hx : x < 3329) (h : 3329 ≤ x + b) : nearModQ x 0 b := by
  left
  change ((0 : Int) - x) % 3329 ≤ b
  omega

theorem decompress_zero (hd : 0 < d) : decompress d 0 = 0 := by
  rw [decompress, Nat.zero_mul, Nat.zero_add]
  exact Nat.div_eq_of_lt (Nat.pow_lt_pow_right (by decide) (Nat.sub_lt hd (by decide)))

/-- The bound is half a step of each rounding; values next to q wrap: they are compressed to 0. -/
theorem nearModQ_decompress_compress {b : Nat} (hd : 0 < d) (hb : 3329 + 2 ^ d < 2 * ((b + 1) * 2 ^ d))
    (hx : x < 3329) : nearModQ x (decompress d (compress d x)) b := by
  have hcancel {u v : Nat} (h : u * 2 ^ d < v * 2 ^ d + (b + 1) * 2 ^ d) : u ≤ v + b := by
    rw [← Nat.add_mul] at h
    exact Nat.le_of_lt_succ (Nat.lt_of_mul_lt_mul_right h)
  obtain ⟨n, hn, hlow, hhigh⟩ := compress_eq_nearest_mod d x
  rw [hn]
  obtain hlt | hge := Nat.lt_or_ge n (2 ^ d)
  · obtain ⟨hlow', hhigh'⟩ := decompress_nearest hd n
    rw [Nat.mul_assoc 2] at hlow' hhigh'
    rw [Nat.mod_eq_of_lt hlt]
    exact nearModQ_of_le (hcancel (by omega)) (hcancel (by omega))
  · have hle : x * 2 ^ d ≤ 3328 * 2 ^ d := Nat.mul_le_mul_right _ (Nat.le_of_lt_succ hx)
    have hn' : n = 2 ^ d := by omega
    subst hn'
    rw [Nat.mod_self, decompress_zero hd]
    exact nearModQ_zero_of_le hx (hcancel (by omega))

/-- Settles O56: the bits of both functions, and the error bound from the two roundings. -/
theorem codecLaws : Obligations.CodecLaws := by
  refine ⟨fun d B _ _ => ⟨byteDecode_length d B, fun i hi => byteDecode_getD d B hi⟩,
    fun p hlen hp => byteDecode_byteEncode hlen hp, fun B hB => byteEncode_byteDecode (by decide) hB,
    fun x hx => ⟨?_, ?_, ?_⟩⟩ <;>
    exact nearModQ_decompress_compress (by decide) (by decide) hx

end Sys2Proof.Machine
end

section
/-! PROOFS. The message encoding and the message bit (45_codec.md R254, R255; O58). -/

namespace Sys2Proof.Machine

variable {x y : Nat} {M : List Byte}

/-! ### The message bit -/

theorem msgBit_eq_one_iff (x : Nat) : msgBit x = 1 ↔ 833 ≤ x ∧ x ≤ 2496 := by
  simp only [msgBit, q, ite_eq_left_iff, Nat.zero_ne_one, imp_false, Decidable.not_not]
  omega

theorem msgBit_eq_zero_or_one (x : Nat) : msgBit x = 0 ∨ msgBit x = 1 := by
  rw [msgBit]
  split
  · exact .inr rfl
  · exact .inl rfl

theorem compress_one_eq_one_iff (hx : x < 3329) : compress 1 x = 1 ↔ 833 ≤ x ∧ x ≤ 2496 := by
  change (x * 2 + 1664) / 3329 % 2 = 1 ↔ _
  omega

theorem bit_eq_of_iff (hx : x = 0 ∨ x = 1) (hy : y = 0 ∨ y = 1) (h : x = 1 ↔ y = 1) : x = y := by omega

theorem msgBit_eq_compress (hx : x < 3329) : msgBit x = compress 1 x := by
  refine bit_eq_of_iff (msgBit_eq_zero_or_one x) (Nat.mod_two_eq_zero_or_one _) ?_
  rw [msgBit_eq_one_iff, compress_one_eq_one_iff hx]

theorem msgBit_symm (hx : x < 3329) : msgBit x = msgBit ((3329 - x) % 3329) := by
  refine bit_eq_of_iff (msgBit_eq_zero_or_one x) (msgBit_eq_zero_or_one _) ?_
  rw [msgBit_eq_one_iff, msgBit_eq_one_iff]
  omega

/-! ### The message encoding -/

theorem eq_zero_or_one_of_mem_byteDecode (hx : x ∈ byteDecode 1 M) : x = 0 ∨ x = 1 :=
  Nat.le_one_iff_eq_zero_or_eq_one.mp (Nat.le_of_lt_succ (byteDecode_lt 1 M x hx))

theorem encodeMsg_eq_map_decompress (M : List Byte) : encodeMsg M = (byteDecode 1 M).map (decompress 1) := by
  refine List.map_congr_left fun x hx => ?_
  obtain rfl | rfl := eq_zero_or_one_of_mem_byteDecode hx
  · rfl
  · rfl

theorem encodeMsg_getD (M : List Byte) {i : Nat} (hi : i < 256) :
    (encodeMsg M).getD i 0 = 1665 * (streamBit M i).toNat := by
  have hbit : (byteDecode 1 M).getD i 0 = (streamBit M i).toNat := by
    rw [byteDecode_getD 1 M hi]
    simp
  rw [← hbit]
  exact List.getD_map (l := byteDecode 1 M) 0 (1665 * ·)

/-- Decoding undoes encoding. -/
theorem decodeMsg_encodeMsg (hM : M.length = 32) : decodeMsg (encodeMsg M) = M := by
  have hbits : (encodeMsg M).map msgBit = byteDecode 1 M := by
    rw [encodeMsg, List.map_map]
    refine (List.map_congr_left fun x hx => ?_).trans (List.map_id _)
    obtain rfl | rfl := eq_zero_or_one_of_mem_byteDecode hx
    · rfl
    · rfl
  rw [decodeMsg, hbits, byteEncode_byteDecode (by decide) hM]

/-- Settles O58: a coefficient is 1665 times its message bit, and the message bit is 1 for 833 to 2496. -/
theorem messageCodec : Obligations.MessageCodec := by
  refine ⟨fun M hM => ⟨encodeMsg_eq_map_decompress M, fun i hi => encodeMsg_getD M hi, decodeMsg_encodeMsg hM⟩,
    fun x hx => ⟨msgBit_eq_one_iff x, msgBit_eq_zero_or_one x, msgBit_eq_compress hx, msgBit_symm hx, ?_⟩,
    fun _ => rfl⟩
  rw [msgBit_eq_one_iff]
  omega

end Sys2Proof.Machine
end

section
/-! PROOFS. The codec commands (45_codec.md R260 to R267; O36 to O38). -/

namespace Sys2Proof.Machine

variable {i : Instr} {effect : State → Option State} {s : State} {src dst d : Word}

/-! ### What a command with a MEM output leaves -/

/-- An accepted, unraced command that has written some bytes completes, and changes nothing but those bytes. -/
theorem exec_written_completes {a : Nat} {B : List Byte} (hexec : exec i s = runCommand i effect s)
    (hw : i.wellFormed s.params) (hr : s.races = []) (he : effect s = some (s.writeBytes a B)) :
    ∃ t, exec i s = .next t ∧ t = { s with pending := none, done := true, mem := t.mem } ∧ MemBecomes s t a B := by
  refine ⟨_, exec_completed hexec hw hr he, ?_, s.readByte_writeBytes a B⟩
  rw [s.writeBytes_only_mem]
  rfl

/-- Outside its contract it leaves draws in their place. -/
theorem exec_freeMem_completes {a n : Nat} (hexec : exec i s = runCommand i effect s) (hw : i.wellFormed s.params)
    (hr : s.races = []) (he : effect s = some (s.freeMem a n)) :
    ∃ t, exec i s = .next t ∧ t = { s with pending := none, done := true, mem := t.mem, draws := s.draws + 1 } ∧
      ∀ x, t.readByte x = if a ≤ x ∧ x < a + n then Config.freeByte s.draws x else s.readByte x := by
  refine ⟨_, exec_completed hexec hw hr he, ?_, fun x => ?_⟩
  · rw [State.freeMem, s.writeBytes_only_mem]
    rfl
  · refine (s.readByte_writeFree x s.draws ⟨a, n⟩).trans ?_
    exact ite_congr (propext (Region.has_iff x _)) (fun _ => rfl) fun _ => rfl

/-! ### Registers in contract and outside it -/

theorem pregToMem_of_canonical (n : Nat) (f : List Nat → List Byte) (takesAll : Bool) (dst : Word)
    (h : canonical (s.preg src.toNat).coeffs = true) :
    pregToMem n f takesAll src dst s = some (s.writeBytes dst.toNat (f (s.preg src.toNat).coeffs)) := by
  simp [pregToMem, h]

theorem pregToMem_of_not_canonical (n : Nat) (f : List Nat → List Byte) (takesAll : Bool) (dst : Word)
    (h : canonical (s.preg src.toNat).coeffs = false) :
    pregToMem n f takesAll src dst s =
      if takesAll then some (s.writeBytes dst.toNat (f (s.preg src.toNat).coeffs))
      else some (s.freeMem dst.toNat n) := by
  simp [pregToMem, h]

/-- An accepted, unraced command that packs a canonical register into `n` bytes of MEM. -/
theorem exec_pregToMem_completes {n : Nat} {f : List Nat → List Byte} {takesAll : Bool}
    (hexec : exec i s = runCommand i (pregToMem n f takesAll src dst) s) (hlen : ∀ F, (f F).length = n)
    (hw : i.wellFormed s.params) (hr : s.races = []) (hcanon : canonical (s.preg src.toNat).coeffs = true) :
    ∃ t, exec i s = .next t ∧ t = { s with pending := none, done := true, mem := t.mem } ∧
      MemBecomes s t dst.toNat (f (s.preg src.toNat).coeffs) ∧ (f (s.preg src.toNat).coeffs).length = n := by
  obtain ⟨t, ht, hframe, hmem⟩ :=
    exec_written_completes hexec hw hr (pregToMem_of_canonical n f takesAll dst hcanon)
  exact ⟨t, ht, hframe, hmem, hlen _⟩

/-- Settles O36: the effect is one write of the packed bytes. -/
theorem encodingCommandsComplete : Obligations.EncodingCommandsComplete := by
  intro s src dst hr hcanon
  refine ⟨fun hw => ?_, fun hw => ?_, fun hw => ?_, fun hw => ?_⟩
  · exact exec_pregToMem_completes (f := enc12) rfl (byteEncode_length 12) hw hr hcanon
  · exact exec_pregToMem_completes (f := comp10) rfl (fun _ => byteEncode_length 10 _) hw hr hcanon
  · exact exec_pregToMem_completes (f := comp4) rfl (fun _ => byteEncode_length 4 _) hw hr hcanon
  · exact exec_pregToMem_completes (f := decodeMsg) rfl (fun _ => byteEncode_length 1 _) hw hr hcanon

/-- Settles O37: the effect is one draw for the output bytes, or for ENC12 one write of the cells packed. -/
theorem outOfContractEncodingsGiveAny : Obligations.OutOfContractEncodingsGiveAny := by
  refine ⟨fun s src dst hr hcells i n hi hw => ?_, fun s src dst hr hcells hw => ?_⟩
  · have heffect (n : Nat) (f : List Nat → List Byte) := pregToMem_of_not_canonical n f false dst hcells
    obtain ⟨rfl, rfl⟩ | ⟨rfl, rfl⟩ | ⟨rfl, rfl⟩ := hi <;> exact exec_freeMem_completes rfl hw hr (heffect _ _)
  · have hexec : exec (.enc12 src dst) s =
        runCommand (.enc12 src dst) (pregToMem 384 enc12 Config.enc12Keeps src dst) s := rfl
    have heffect := pregToMem_of_not_canonical 384 enc12 Config.enc12Keeps dst hcells
    cases hkeeps : Config.enc12Keeps with
    | true =>
      obtain ⟨t, ht, hframe, hmem⟩ := exec_written_completes hexec hw hr (heffect.trans (if_pos hkeeps))
      have hdraws : t.draws = s.draws := by rw [hframe]
      exact ⟨t, ht, by rwa [hdraws], fun _ => hmem, nofun⟩
    | false =>
      obtain ⟨t, ht, hframe, hmem⟩ := exec_freeMem_completes hexec hw hr (heffect.trans (if_neg (by simp [hkeeps])))
      have hdraws : t.draws = s.draws + 1 := by rw [hframe]
      exact ⟨t, ht, by rwa [hdraws], nofun, fun _ => hmem⟩

/-! ### What the decoding commands leave in their register -/

/-- An accepted, unraced command that computes a register from MEM, by a function with 256 values of 12 bits. -/
theorem exec_memToPreg_completes {n : Nat} {f : List Byte → List Nat}
    (hexec : exec i s = runCommand i (memToPreg n f d src) s) (hw : i.wellFormed s.params) (hr : s.races = [])
    (hlen : ∀ B, (f B).length = 256) (hlt : ∀ B, ∀ x ∈ f B, x < 4096) :
    ∃ t, exec i s = .next t ∧ t = { s with pending := none, done := true, pregs := t.pregs } ∧
      PregBecomes s t d (f (s.readBytes src.toNat n)) :=
  exec_setPreg_completes hexec hw hr rfl (hlen _) (hlt _)

theorem canonical_map_decompress {k : Nat} (hk : k = 4 ∨ k = 10) (B : List Byte) :
    canonical ((byteDecode k B).map (decompress k)) = true := by
  refine canonical_iff.mpr (List.forall_mem_map.mpr fun y hy => ?_)
  refine (decompress_le_last (byteDecode_lt k B y hy)).trans_lt ?_
  obtain rfl | rfl := hk
  · decide
  · decide

theorem eq_zero_or_1665_of_mem_encodeMsg (M : List Byte) : ∀ x ∈ encodeMsg M, x = 0 ∨ x = 1665 := by
  refine List.forall_mem_map.mpr fun y hy => ?_
  obtain rfl | rfl := eq_zero_or_one_of_mem_byteDecode hy
  · exact .inl rfl
  · exact .inr rfl

/-- DECOMP10 and DECOMP4: the register is canonical. -/
theorem exec_decompress_completes {k n : Nat} (hk : k = 4 ∨ k = 10)
    (hexec : exec i s = runCommand i (memToPreg n (fun B => (byteDecode k B).map (decompress k)) d src) s)
    (hw : i.wellFormed s.params) (hr : s.races = []) :
    ∃ t, exec i s = .next t ∧ t = { s with pending := none, done := true, pregs := t.pregs } ∧
      PregBecomes s t d ((byteDecode k (s.readBytes src.toNat n)).map (decompress k)) ∧
      canonical (t.preg d.toNat).coeffs = true := by
  obtain ⟨t, ht, hframe, hcoeffs, hothers⟩ := exec_memToPreg_completes hexec hw hr (fun B => by simp)
    fun B => lt_cell_of_lt_q (canonical_iff.mp (canonical_map_decompress hk B))
  refine ⟨t, ht, hframe, ⟨hcoeffs, hothers⟩, ?_⟩
  rw [hcoeffs]
  exact canonical_map_decompress hk _

/-- Settles O38: the effect is one write to the register, of 256 values that fit into its cells. -/
theorem decodingCommandsComplete : Obligations.DecodingCommandsComplete := by
  intro s d src hr
  refine ⟨fun hw => ?_, fun hw => ?_, fun hw => ?_, fun hw => ?_⟩
  · exact exec_memToPreg_completes (f := dec12) rfl hw hr (byteDecode_length 12) (byteDecode_lt 12)
  · exact exec_decompress_completes (.inr rfl) rfl hw hr
  · exact exec_decompress_completes (.inl rfl) rfl hw hr
  · have hlen (M : List Byte) : (encodeMsg M).length = 256 := by simp [encodeMsg]
    have hlt (M : List Byte) : ∀ x ∈ encodeMsg M, x < 4096 := fun x hx => by
      have := eq_zero_or_1665_of_mem_encodeMsg M x hx
      omega
    obtain ⟨t, ht, hframe, hcoeffs, hothers⟩ := exec_memToPreg_completes (i := .frommsg d src) rfl hw hr hlen hlt
    refine ⟨t, ht, hframe, ⟨hcoeffs, hothers⟩, ?_⟩
    rw [hcoeffs]
    exact eq_zero_or_1665_of_mem_encodeMsg _

end Sys2Proof.Machine
end

section
/-! PROOFS. What KEYGEN, ENCAPS and DECAPS leave: their outputs in MEM, draws in every P register, and the rest as
before (46_kem.md R299 to R302; O39 to O41). -/

namespace Sys2Proof.Machine

variable {i : Instr} {effect : State → Option State} {s u : State} {a b n m : Nat} {A B : List Byte}

/-- What every completed KEM command leaves (R299): draws in every P register; and only MEM, P and the draws changed
beside BUSY and DONE. -/
def State.KemLeaves (s t : State) : Prop :=
  t = { s with
    pending := none, done := true, mem := t.mem, pregs := t.pregs, pregDraw := t.pregDraw, draws := t.draws } ∧
  ∀ r, t.preg r = freePoly s.draws r

/-- After an accepted, unraced KEM command, MEM is as its effect left it, and P is unspecified (R299). -/
theorem exec_afterKem_completes (hexec : ∀ s, exec i s = runCommand i effect s) (hw : i.wellFormed s.params)
    (hr : s.races = []) (hu : u = { s with mem := u.mem }) (he : effect s = some u.afterKem) :
    ∃ t, exec i s = .next t ∧ s.KemLeaves t ∧ ∀ x, t.readByte x = u.readByte x := by
  refine ⟨_, exec_completed (hexec s) hw hr he, ⟨?_, fun r => ?_⟩, fun _ => rfl⟩
  · rw [hu]
    rfl
  · rw [hu]
    rfl

/-- A KEM command with one output. -/
theorem exec_kemOne_completes (hexec : ∀ s, exec i s = runCommand i effect s) (hw : i.wellFormed s.params)
    (hr : s.races = []) (he : effect s = some (s.writeBytes a A).afterKem) :
    ∃ t, exec i s = .next t ∧ s.KemLeaves t ∧ MemBecomes s t a A := by
  obtain ⟨t, ht, hkem, hmem⟩ := exec_afterKem_completes hexec hw hr (s.writeBytes_only_mem a A) he
  exact ⟨t, ht, hkem, fun x => (hmem x).trans (s.readByte_writeBytes a A x)⟩

/-- Two writes to regions that share no byte. -/
theorem readByte_writeBytes_twice (hA : A.length = n) (hB : B.length = m) (h : apart a n b m) (x : Nat) :
    ((s.writeBytes a A).writeBytes b B).readByte x =
      if a ≤ x ∧ x < a + n then A.getD (x - a) 0
      else if b ≤ x ∧ x < b + m then B.getD (x - b) 0
      else s.readByte x := by
  rw [State.readByte_writeBytes, State.readByte_writeBytes, hA, hB]
  by_cases hx : b ≤ x ∧ x < b + m
  · have hx' : ¬(a ≤ x ∧ x < a + n) := by omega
    rw [if_pos hx, if_neg hx', if_pos hx]
  · rw [if_neg hx, if_neg hx]

/-- A KEM command with two outputs. -/
theorem exec_kemTwo_completes (hexec : ∀ s, exec i s = runCommand i effect s) (hw : i.wellFormed s.params)
    (hr : s.races = []) (hA : A.length = n) (hB : B.length = m) (h : apart a n b m)
    (he : effect s = some ((s.writeBytes a A).writeBytes b B).afterKem) :
    ∃ t, exec i s = .next t ∧ s.KemLeaves t ∧ MemBecomesTwo s t a n A b m B := by
  have hu : (s.writeBytes a A).writeBytes b B = { s with mem := ((s.writeBytes a A).writeBytes b B).mem } := by
    rw [(s.writeBytes a A).writeBytes_only_mem, s.writeBytes_only_mem]
  obtain ⟨t, ht, hkem, hmem⟩ := exec_afterKem_completes hexec hw hr hu he
  exact ⟨t, ht, hkem, fun x => (hmem x).trans (readByte_writeBytes_twice hA hB h x)⟩

/-- Settles O39: the effect is two writes, to regions that the argument check keeps apart. -/
theorem keygenCompletes : Obligations.KeygenCompletes := by
  intro s d z pk sk PK SK hw hr hkeys
  obtain ⟨hPK, hSK⟩ := keyGen_lengths hkeys
  rw [State.readBytes_length] at hSK
  have ⟨_, _, _, _, _, _, hapart, _, _⟩ := hw
  obtain ⟨t, ht, ⟨hframe, hpregs⟩, hmem⟩ := exec_kemTwo_completes (i := .keygen d z pk sk) (fun _ => rfl) hw hr
    hPK hSK hapart (by simp only [hkeys])
  exact ⟨t, ht, hframe, hmem, hPK, hSK, hpregs⟩

/-- Settles O40: in contract the effect writes the two results, outside it two draws of the same lengths. -/
theorem encapsCompletes : Obligations.EncapsCompletes := by
  intro s pk m ct key CT KK hw hr hres
  obtain ⟨hCT, hKK⟩ := encapsulate_lengths hres
  have ⟨_, _, _, _, _, _, hapart, _, _⟩ := hw
  cases hpk : pkCanonical (s.readBytes pk.toNat 1184) with
  | true =>
    obtain ⟨t, ht, ⟨hframe, hpregs⟩, hmem⟩ := exec_kemTwo_completes (i := .encaps pk m ct key) (fun _ => rfl) hw hr
      hCT hKK hapart (by simp only [hres, hpk, if_true])
    exact ⟨t, ht, hframe, hCT, hKK, fun _ => hmem, nofun, hpregs⟩
  | false =>
    obtain ⟨t, ht, ⟨hframe, hpregs⟩, hmem⟩ := exec_kemTwo_completes (i := .encaps pk m ct key) (fun _ => rfl) hw hr
      (freeBytes_length s.draws ct.toNat 1088) (freeBytes_length s.draws key.toNat 32) hapart
      (by simp only [hres, hpk, Bool.false_eq_true, if_false])
    exact ⟨t, ht, hframe, hCT, hKK, nofun, fun _ => hmem, hpregs⟩

/-- Settles O41: in contract the effect writes the secret of either branch, outside it a draw. -/
theorem decapsCompletes : Obligations.DecapsCompletes := by
  intro s sk ct key KK hw hr hres
  have hKK := decapsulate_length hres
  cases hsk : skCanonical (s.readBytes sk.toNat 2400) with
  | true =>
    obtain ⟨t, ht, ⟨hframe, hpregs⟩, hmem⟩ := exec_kemOne_completes (i := .decaps sk ct key) (a := key.toNat) (A := KK)
      (fun _ => rfl) hw hr (by simp only [hres, hsk, if_true])
    exact ⟨t, ht, hframe, hKK, fun _ => hmem, nofun, hpregs⟩
  | false =>
    obtain ⟨t, ht, ⟨hframe, hpregs⟩, hmem⟩ := exec_kemOne_completes (i := .decaps sk ct key) (a := key.toNat)
      (A := freeBytes s.draws key.toNat 32) (fun _ => rfl) hw hr
      (by simp only [hres, hsk, Bool.false_eq_true, if_false])
    exact ⟨t, ht, hframe, hKK, nofun, fun _ => hmem, hpregs⟩

end Sys2Proof.Machine
end

section
/-! PROOFS. The parts of keys and ciphertexts (46_kem.md R290): byte strings that stand one after the other, and vectors
of polynomials packed one after the other. -/

namespace Sys2Proof.Machine

variable {d n a b i : Nat} {L : List (List Nat)}

theorem slice_middle (A B C : List Byte) (ha : A.length = a) (hb : a + B.length = b) :
    slice (A ++ (B ++ C)) a b = B := by
  subst ha hb
  rw [slice, List.drop_left, Nat.add_sub_cancel_left, List.take_left]

theorem slice_last (A B : List Byte) (ha : A.length = a) (hb : a + B.length = b) : slice (A ++ B) a b = B := by
  have h := slice_middle A B [] ha hb
  rwa [List.append_nil] at h

/-- Three strings of `n` bytes. -/
theorem flatMap_three_length {f : List Nat → List Byte} (hf : ∀ F, (f F).length = n) (g : Nat → List Nat) :
    (((List.range 3).map g).flatMap f).length = 3 * n := by
  rw [flatMap_length_of_const hf, List.length_map, List.length_range]

/-- Part `i` of the packed polynomials is the packed polynomial `i`. -/
theorem slice_flatMap {f : List Nat → List Byte} (hf : ∀ F, (f F).length = n) (C : List Byte) (hi : i < L.length) :
    slice (L.flatMap f ++ C) (n * i) (n * i + n) = f L[i] := by
  have hsplit : (L.take i).flatMap f ++ (f L[i] ++ ((L.drop (i + 1)).flatMap f ++ C)) = L.flatMap f ++ C := by
    conv_rhs => rw [← List.take_append_drop i L, List.drop_eq_getElem_cons hi]
    simp only [List.flatMap_append, List.flatMap_cons, List.append_assoc]
  rw [← hsplit]
  refine slice_middle _ _ _ ?_ (by rw [hf])
  rw [flatMap_length_of_const hf, List.length_take, Nat.min_eq_left hi.le, Nat.mul_comm]

section

variable {g : Nat → List Nat} (hlen : ∀ j, (g j).length = 256)

include hlen

/-- Three polynomials packed with `d` bits a coefficient are read back. -/
theorem byteDecode_slice_three (hn : 32 * d = n) (hlt : ∀ j, ∀ x ∈ g j, x < 2 ^ d) (C : List Byte) (hi : i < 3) :
    byteDecode d (slice (((List.range 3).map g).flatMap (byteEncode d) ++ C) (n * i) (n * i + n)) = g i := by
  have hi' : i < ((List.range 3).map g).length := by rwa [List.length_map, List.length_range]
  rw [← hn, slice_flatMap (byteEncode_length d) C hi', List.getElem_map, List.getElem_range]
  exact byteDecode_byteEncode (hlen i) (hlt i)

/-- Three packed polynomials with coefficients below q are a vector in contract. -/
theorem polyVec_canonical (hlt : ∀ j, ∀ x ∈ g j, x < q) (C : List Byte) :
    (polyVec dec12 384 (((List.range 3).map g).flatMap enc12 ++ C)).all canonical = true := by
  refine List.all_eq_true.mpr (List.forall_mem_map.mpr fun i hi => canonical_iff.mpr ?_)
  have hread : dec12 (slice (((List.range 3).map g).flatMap enc12 ++ C) (384 * i) (384 * i + 384)) = g i :=
    byteDecode_slice_three hlen rfl (fun j => lt_cell_of_lt_q (hlt j)) C (List.mem_range.mp hi)
  exact hread ▸ hlt i

end

end Sys2Proof.Machine
end

section
/-! PROOFS. The matrix, the noise and the sum of three products, entry by entry (46_kem.md R291 to R293). -/

namespace Sys2Proof.Machine

variable {w : Nat} {rhoSeed : List Byte} {A : Nat → Nat → List Nat}

/-! ### The matrix -/

theorem allSome_some_cons {α : Type} (a : α) (l : List (Option α)) :
    allSome (some a :: l) = (allSome l).map (a :: ·) := by
  rw [allSome]
  cases allSome l <;> rfl

theorem allSome_eq_some_iff {α : Type} {l : List (Option α)} {r : List α} : allSome l = some r ↔ l = r.map some := by
  induction l generalizing r with
  | nil => cases r <;> simp [allSome]
  | cons x l ih =>
    cases x with
    | none => cases r <;> simp [allSome]
    | some a => cases r <;> simp [allSome_some_cons, ih, and_comm]

theorem allSome_map_eq_some {α β : Type} {x : α → Option β} {y : α → β} {l : List α} (h : ∀ a ∈ l, x a = some (y a)) :
    allSome (l.map x) = some (l.map y) := by
  rw [allSome_eq_some_iff, List.map_map]
  exact List.map_congr_left h

theorem exists_of_allSome_map {α β : Type} {x : α → Option β} {l : List α} {r : List β}
    (h : allSome (l.map x) = some r) {a : α} (ha : a ∈ l) : ∃ b, x a = some b := by
  have hmem := List.mem_map_of_mem (f := x) ha
  rw [allSome_eq_some_iff.mp h] at hmem
  obtain ⟨b, -, hb⟩ := List.mem_map.mp hmem
  exact ⟨b, hb.symm⟩

/-- The matrix as the list of its rows. -/
def matrixRows (A : Nat → Nat → List Nat) : List (List (List Nat)) :=
  (List.range 3).map fun i => (List.range 3).map (A i)

theorem matrixRows_getD {i : Nat} (hi : i < 3) : (matrixRows A).getD i [] = (List.range 3).map (A i) :=
  getD_map_range _ _ hi

theorem transposeRow_matrixRows {i : Nat} (hi : i < 3) :
    transposeRow (matrixRows A) i = (List.range 3).map fun j => A j i := by
  rw [transposeRow, matrixRows, List.map_map]
  exact List.map_congr_left fun j _ => getD_map_range _ _ hi

theorem genMatrix_of_matrixOf (h : MatrixOf w rhoSeed A) : genMatrix w rhoSeed = some (matrixRows A) :=
  allSome_map_eq_some fun i hi => allSome_map_eq_some fun j hj => h i j (List.mem_range.mp hi) (List.mem_range.mp hj)

/-- GenMatrix has a result exactly when its nine rejection loops have stopped. -/
theorem genMatrix_isSome_iff : (genMatrix w rhoSeed).isSome = true ↔ ∃ A, MatrixOf w rhoSeed A := by
  constructor
  · intro h
    obtain ⟨M, hM⟩ := Option.isSome_iff_exists.mp h
    refine ⟨fun i j => (sampleNtt w rhoSeed (BitVec.ofNat 8 j) (BitVec.ofNat 8 i)).getD [], fun i j hi hj => ?_⟩
    obtain ⟨row, hrow⟩ := exists_of_allSome_map hM (List.mem_range.mpr hi)
    obtain ⟨f, hf⟩ := exists_of_allSome_map hrow (List.mem_range.mpr hj)
    simp only [hf, Option.getD_some]
  · rintro ⟨A, hA⟩
    rw [genMatrix_of_matrixOf hA]
    rfl

theorem MatrixOf.length {i j : Nat} (h : MatrixOf w rhoSeed A) (hi : i < 3) (hj : j < 3) : (A i j).length = 256 :=
  parse_length (h i j hi hj)

/-! ### Noise -/

theorem noisePoly_length (seed : List Byte) (N : Nat) : (noisePoly seed N).length = 256 :=
  (cbd2_length _).trans (congrArg (2 * ·) (prfBytes_length seed _))

theorem ntt_noisePoly_length (seed : List Byte) (N : Nat) : (ntt (noisePoly seed N)).length = 256 :=
  ntt_length _ (noisePoly_length seed N)

/-! ### Sums and products, coefficient by coefficient -/

theorem getD_map_of_zero {f : Nat → Nat} (hf : f 0 = 0) (F : List Nat) (c : Nat) :
    (F.map f).getD c 0 = f (F.getD c 0) := by
  have h := List.getD_map (l := F) (n := c) 0 f
  rwa [hf] at h

theorem polyAdd_length {f g : List Nat} (hf : f.length = 256) (hg : g.length = 256) : (polyAdd f g).length = 256 := by
  simp [polyAdd, hf, hg]

theorem polyAdd_getD {f g : List Nat} {c : Nat} (hf : f.length = 256) (hg : g.length = 256) (hc : c < 256) :
    (polyAdd f g).getD c 0 = (f.getD c 0 + g.getD c 0) % q :=
  getD_zipWith addQ (hf ▸ hc) (hg ▸ hc)

theorem polyAdd_lt (f g : List Nat) : ∀ x ∈ polyAdd f g, x < q := forall_mem_zipWith addQ_lt f g

theorem dotPoly_length (a b : Nat → List Nat) : (dotPoly a b).length = 256 := by simp [dotPoly]

theorem dotPoly_getD (a b : Nat → List Nat) {c : Nat} (hc : c < 256) : (dotPoly a b).getD c 0 = dotEntry a b c :=
  getD_map_range _ _ hc

/-- The two reductions of Dot are one. -/
theorem dot_eq_dotPoly {a b : Nat → List Nat} (ha : ∀ j < 3, (a j).length = 256) (hb : ∀ j < 3, (b j).length = 256) :
    dot ((List.range 3).map a) ((List.range 3).map b) = dotPoly a b := by
  have hprod : ∀ j < 3, (basemul (a j) (b j)).length = 256 := fun j hj => basemul_length (ha j hj) (hb j hj)
  have hdot : dot ((List.range 3).map a) ((List.range 3).map b) =
      polyAdd (basemul (a 0) (b 0)) (polyAdd (basemul (a 1) (b 1)) (basemul (a 2) (b 2))) := rfl
  have hinner := polyAdd_length (hprod 1 (by decide)) (hprod 2 (by decide))
  have hlen := polyAdd_length (hprod 0 (by decide)) hinner
  rw [hdot]
  refine List.ext_getElem (hlen.trans (dotPoly_length a b).symm) fun c hc hc' => ?_
  rw [← List.getD_eq_getElem _ 0 hc, ← List.getD_eq_getElem _ 0 hc']
  rw [hlen] at hc
  rw [polyAdd_getD (hprod 0 (by decide)) hinner hc, polyAdd_getD (hprod 1 (by decide)) (hprod 2 (by decide)) hc,
    dotPoly_getD a b hc, dotEntry, Nat.add_mod_mod, Finset.sum_range_succ, Finset.sum_range_succ, Finset.sum_range_one,
    Nat.add_assoc]

end Sys2Proof.Machine
end

section
/-! PROOFS. KeyGen (46_kem.md R294): when it has a result, its equations, and the layout of its keys (R290; O59). -/

namespace Sys2Proof.Machine

variable {w : Nat} {d z rhoSeed : List Byte} {A : Nat → Nat → List Nat}

/-- The transform of the noise of nonce `N` under σ: ŝ[i] for N = i, and ê[i] for N = 3 + i (R294). -/
def keyNoise (d : List Byte) (N : Nat) : List Nat := ntt (noisePoly ((hashG (d ++ [0x03])).drop 32) N)

/-- t̂[i], row `i` of the matrix times ŝ, plus ê[i] (R294). -/
def keyRow (A : Nat → Nat → List Nat) (d : List Byte) (i : Nat) : List Nat :=
  polyAdd (dotPoly (A i) (keyNoise d)) (keyNoise d (3 + i))

/-- pk, the packed t̂ before ρ (R294). -/
def publicKey (A : Nat → Nat → List Nat) (d : List Byte) : List Byte :=
  ((List.range 3).map (keyRow A d)).flatMap enc12 ++ (hashG (d ++ [0x03])).take 32

/-- sk, the packed ŝ before pk, H(pk) and z (R294). -/
def secretKey (A : Nat → Nat → List Nat) (d z : List Byte) : List Byte :=
  ((List.range 3).map (keyNoise d)).flatMap enc12 ++ (publicKey A d ++ (hashH (publicKey A d) ++ z))

theorem slice_hashG_first (M : List Byte) : slice (hashG M) 0 32 = (hashG M).take 32 := rfl

theorem slice_hashG_second (M : List Byte) : slice (hashG M) 32 64 = (hashG M).drop 32 :=
  List.take_of_length_le (by simp)

theorem keyGen_isSome (w : Nat) (d z : List Byte) :
    (keyGen w d z).isSome = (genMatrix w ((hashG (d ++ [0x03])).take 32)).isSome := by
  simp only [keyGen, slice_hashG_first]
  split <;> simp_all

/-- The rows of t̂, as KeyGen computes them. -/
theorem map_keyRow (hA : MatrixOf w rhoSeed A) :
    ((List.range 3).map fun i => polyAdd (dot ((matrixRows A).getD i []) ((List.range 3).map (keyNoise d)))
      (((List.range 3).map fun i => keyNoise d (3 + i)).getD i [])) = (List.range 3).map (keyRow A d) := by
  refine List.map_congr_left fun i hi => ?_
  have hi := List.mem_range.mp hi
  rw [matrixRows_getD hi, getD_map_range _ _ hi, keyRow,
    dot_eq_dotPoly (b := keyNoise d) (fun j => hA.length hi) fun j _ => ntt_noisePoly_length _ j]

theorem keyGen_of_matrixOf (hA : MatrixOf w ((hashG (d ++ [0x03])).take 32) A) :
    keyGen w d z = some (publicKey A d, secretKey A d z) := by
  rw [secretKey, publicKey, ← map_keyRow hA]
  simp only [keyGen, slice_hashG_first, slice_hashG_second, genMatrix_of_matrixOf hA, List.append_assoc]
  rfl

/-- KeyGen has a result exactly when its nine rejection loops have stopped, and it is then this pair of keys. -/
theorem keyGen_eq_some_iff {r : List Byte × List Byte} :
    keyGen w d z = some r ↔
      ∃ A, MatrixOf w ((hashG (d ++ [0x03])).take 32) A ∧ r = (publicKey A d, secretKey A d z) := by
  constructor
  · intro h
    obtain ⟨A, hA⟩ := genMatrix_isSome_iff.mp (by rw [← keyGen_isSome w d z, h]; rfl)
    exact ⟨A, hA, Option.some.inj (h.symm.trans (keyGen_of_matrixOf hA))⟩
  · rintro ⟨A, hA, rfl⟩
    exact keyGen_of_matrixOf hA

/-! ### The coefficients that the keys hold -/

theorem keyNoise_length (d : List Byte) (N : Nat) : (keyNoise d N).length = 256 := ntt_noisePoly_length _ N

theorem keyNoise_lt (d : List Byte) (N : Nat) : ∀ x ∈ keyNoise d N, x < q := ntt_lt _

theorem keyRow_length (A : Nat → Nat → List Nat) (d : List Byte) (i : Nat) : (keyRow A d i).length = 256 :=
  polyAdd_length (dotPoly_length _ _) (keyNoise_length d _)

theorem keyRow_lt (A : Nat → Nat → List Nat) (d : List Byte) (i : Nat) : ∀ x ∈ keyRow A d i, x < q := polyAdd_lt _ _

/-- What is packed into the keys is read back, since every coefficient is below q. -/
theorem keyGenEquations_of_matrixOf (hA : MatrixOf w ((hashG (d ++ [0x03])).take 32) A) (z : List Byte) :
    KeyGenEquations w d (publicKey A d) (secretKey A d z) := by
  refine ⟨A, hA, fun i hi => ⟨?_, fun c hc => ?_⟩⟩
  · exact byteDecode_slice_three (keyNoise_length d) rfl (fun j => lt_cell_of_lt_q (keyNoise_lt d j)) _ hi
  · have hread : byteDecode 12 (slice (publicKey A d) (384 * i) (384 * i + 384)) = keyRow A d i :=
      byteDecode_slice_three (keyRow_length A d) rfl (fun j => lt_cell_of_lt_q (keyRow_lt A d j)) _ hi
    rw [hread, keyRow, polyAdd_getD (dotPoly_length _ _) (keyNoise_length d _) hc, dotPoly_getD _ _ hc]
    rfl

/-! ### The layout of the keys -/

theorem flatMap_enc12_length (g : Nat → List Nat) : (((List.range 3).map g).flatMap enc12).length = 1152 :=
  flatMap_three_length (byteEncode_length 12) g

@[simp] theorem publicKey_length (A : Nat → Nat → List Nat) (d : List Byte) : (publicKey A d).length = 1184 := by
  rw [publicKey, List.length_append, flatMap_enc12_length, List.length_take, hashG_length]
  rfl

theorem slice_publicKey_seed (A : Nat → Nat → List Nat) (d : List Byte) :
    slice (publicKey A d) 1152 1184 = (hashG (d ++ [0x03])).take 32 :=
  slice_last _ _ (flatMap_enc12_length _) (by simp)

theorem slice_secretKey_publicKey (A : Nat → Nat → List Nat) (d z : List Byte) :
    slice (secretKey A d z) 1152 2336 = publicKey A d :=
  slice_middle _ _ _ (flatMap_enc12_length _) (by simp)

theorem slice_secretKey_hash (A : Nat → Nat → List Nat) (d z : List Byte) :
    slice (secretKey A d z) 2336 2368 = hashH (publicKey A d) := by
  rw [secretKey, ← List.append_assoc]
  exact slice_middle _ _ _ (by rw [List.length_append, flatMap_enc12_length, publicKey_length]) (by simp)

theorem slice_secretKey_reject (A : Nat → Nat → List Nat) (d : List Byte) (hz : z.length = 32) :
    slice (secretKey A d z) 2368 2400 = z := by
  rw [secretKey, ← List.append_assoc, ← List.append_assoc]
  refine slice_last _ _ ?_ (by rw [hz])
  rw [List.length_append, List.length_append, flatMap_enc12_length, publicKey_length, hashH_length]

theorem pkCanonical_publicKey (A : Nat → Nat → List Nat) (d : List Byte) : pkCanonical (publicKey A d) = true :=
  polyVec_canonical (keyRow_length A d) (keyRow_lt A d) _

theorem skCanonical_secretKey (A : Nat → Nat → List Nat) (d z : List Byte) : skCanonical (secretKey A d z) = true := by
  rw [skCanonical, slice_secretKey_publicKey, pkCanonical_publicKey, Bool.and_true]
  exact polyVec_canonical (keyNoise_length d) (keyNoise_lt d) _

/-- Settles O59: KeyGen's result is one pair of keys, of which the equations, the layout and the contracts hold. -/
theorem keygenKeysAreInContract : Obligations.KeygenKeysAreInContract := by
  refine ⟨fun w d z => ?_, fun w d z pk sk h => ?_, fun w d z pk sk hz h => ?_⟩
  · rw [keyGen_isSome, genMatrix_isSome_iff]
  · obtain ⟨A, hA, hkeys⟩ := keyGen_eq_some_iff.mp h
    cases hkeys
    exact keyGenEquations_of_matrixOf hA z
  · obtain ⟨hpk, hsk⟩ := keyGen_lengths h
    obtain ⟨A, -, hkeys⟩ := keyGen_eq_some_iff.mp h
    cases hkeys
    exact ⟨hpk, by rw [hsk, hz], slice_publicKey_seed A d, slice_secretKey_publicKey A d z, slice_secretKey_hash A d z,
      slice_secretKey_reject A d hz, pkCanonical_publicKey A d, skCanonical_secretKey A d z⟩

end Sys2Proof.Machine
end

section
/-! PROOFS. Encrypt and Encaps (46_kem.md R295, R296): when they have a result, and its equations. -/

namespace Sys2Proof.Machine

variable {w : Nat} {pk m r rhoSeed : List Byte} {A : Nat → Nat → List Nat}

/-- Polynomial `j` of the packed vector at the front of a key: t̂[j] of pk, ŝ[j] of sk (R290). -/
def keyPoly (B : List Byte) (j : Nat) : List Nat := byteDecode 12 (slice B (384 * j) (384 * j + 384))

theorem keyPoly_length (B : List Byte) (j : Nat) : (keyPoly B j).length = 256 := byteDecode_length 12 _

/-- u[i] (R295). -/
def cipherU (A : Nat → Nat → List Nat) (r : List Byte) (i : Nat) : List Nat :=
  polyAdd (intt (dotPoly (fun j => A j i) fun j => ntt (noisePoly r j))) (noisePoly r (3 + i))

/-- v (R295). -/
def cipherV (pk m r : List Byte) : List Nat :=
  polyAdd (polyAdd (intt (dotPoly (keyPoly pk) fun j => ntt (noisePoly r j))) (noisePoly r 6)) (encodeMsg m)

/-- ct, the compressed u before the compressed v (R295). -/
def cipherText (A : Nat → Nat → List Nat) (pk m r : List Byte) : List Byte :=
  ((List.range 3).map (cipherU A r)).flatMap comp10 ++ comp4 (cipherV pk m r)

/-- The rows of u, as Encrypt computes them. -/
theorem map_cipherU (hA : MatrixOf w rhoSeed A) (r : List Byte) :
    ((List.range 3).map fun i =>
      polyAdd (intt (dot (transposeRow (matrixRows A) i) ((List.range 3).map fun j => ntt (noisePoly r j))))
        (((List.range 3).map fun i => noisePoly r (3 + i)).getD i [])) = (List.range 3).map (cipherU A r) := by
  refine List.map_congr_left fun i hi => ?_
  have hi := List.mem_range.mp hi
  rw [transposeRow_matrixRows hi, getD_map_range _ _ hi, cipherU,
    dot_eq_dotPoly (fun j hj => hA.length hj hi) fun j _ => ntt_noisePoly_length r j]

theorem encrypt_of_matrixOf (hA : MatrixOf w (slice pk 1152 1184) A) :
    encrypt w pk m r = some (cipherText A pk m r) := by
  rw [cipherText, ← map_cipherU hA r, cipherV,
    ← dot_eq_dotPoly (fun j _ => keyPoly_length pk j) fun j _ => ntt_noisePoly_length r j]
  simp only [encrypt, genMatrix_of_matrixOf hA]
  rfl

/-! ### The coefficients that a ciphertext holds -/

theorem compress_lt (d x : Nat) : compress d x < 2 ^ d := Nat.mod_lt _ (Nat.two_pow_pos d)

theorem map_compress_lt (d : Nat) (F : List Nat) : ∀ y ∈ F.map (compress d), y < 2 ^ d :=
  List.forall_mem_map.mpr fun x _ => compress_lt d x

theorem intt_dotPoly_length (a b : Nat → List Nat) : (intt (dotPoly a b)).length = 256 :=
  intt_length _ (dotPoly_length a b)

theorem encodeMsg_length (M : List Byte) : (encodeMsg M).length = 256 := by simp [encodeMsg]

theorem cipherU_length (A : Nat → Nat → List Nat) (r : List Byte) (i : Nat) : (cipherU A r i).length = 256 :=
  polyAdd_length (intt_dotPoly_length _ _) (noisePoly_length r _)

theorem cipherV_length (pk m r : List Byte) : (cipherV pk m r).length = 256 :=
  polyAdd_length (polyAdd_length (intt_dotPoly_length _ _) (noisePoly_length r 6)) (encodeMsg_length m)

theorem cipherV_getD (pk m r : List Byte) {c : Nat} (hc : c < 256) :
    (cipherV pk m r).getD c 0 = ((intt (dotPoly (keyPoly pk) fun j => ntt (noisePoly r j))).getD c 0 +
      (noisePoly r 6).getD c 0 + 1665 * (streamBit m c).toNat) % q := by
  have hinner := polyAdd_length (intt_dotPoly_length (keyPoly pk) fun j => ntt (noisePoly r j)) (noisePoly_length r 6)
  rw [cipherV, polyAdd_getD hinner (encodeMsg_length m) hc,
    polyAdd_getD (intt_dotPoly_length _ _) (noisePoly_length r 6) hc, encodeMsg_getD m hc, Nat.mod_add_mod]

/-- The packed u read back. -/
theorem byteDecode_cipherText_u (A : Nat → Nat → List Nat) (pk m r : List Byte) {i : Nat} (hi : i < 3) :
    byteDecode 10 (slice (cipherText A pk m r) (320 * i) (320 * i + 320)) = (cipherU A r i).map (compress 10) := by
  have hpack : ((List.range 3).map (cipherU A r)).flatMap comp10 =
      ((List.range 3).map fun i => (cipherU A r i).map (compress 10)).flatMap (byteEncode 10) := by
    rw [List.flatMap_map, List.flatMap_map]
    rfl
  rw [cipherText, hpack]
  exact byteDecode_slice_three (fun j => by rw [List.length_map, cipherU_length]) rfl
    (fun j => map_compress_lt 10 _) _ hi

/-- The packed v read back. -/
theorem byteDecode_cipherText_v (A : Nat → Nat → List Nat) (pk m r : List Byte) :
    byteDecode 4 (slice (cipherText A pk m r) 960 1088) = (cipherV pk m r).map (compress 4) := by
  have hu : (((List.range 3).map (cipherU A r)).flatMap comp10).length = 960 :=
    flatMap_three_length (fun _ => byteEncode_length 10 _) _
  have hv : (comp4 (cipherV pk m r)).length = 128 := byteEncode_length 4 _
  rw [cipherText, slice_last _ _ hu (by rw [hv])]
  exact byteDecode_byteEncode (by rw [List.length_map, cipherV_length]) (map_compress_lt 4 _)

theorem encryptEquations_of_matrixOf (hA : MatrixOf w (slice pk 1152 1184) A) (m r : List Byte) :
    EncryptEquations w pk m r (cipherText A pk m r) := by
  refine ⟨encrypt_length (encrypt_of_matrixOf hA), A, hA, fun i c hi hc => ?_, fun c hc => ?_⟩
  · rw [byteDecode_cipherText_u A pk m r hi, getD_map_of_zero (f := compress 10) rfl, cipherU,
      polyAdd_getD (intt_dotPoly_length _ _) (noisePoly_length r _) hc]
  · rw [byteDecode_cipherText_v, getD_map_of_zero (f := compress 4) rfl, cipherV_getD pk m r hc]
    rfl

/-- Encaps is Encrypt with the second half of G(m ∥ H(pk)), beside the first half (R296). -/
theorem encapsulate_eq_map_encrypt (w : Nat) (pk m : List Byte) :
    encapsulate w pk m =
      (encrypt w pk m ((hashG (m ++ hashH pk)).drop 32)).map fun ct => (ct, (hashG (m ++ hashH pk)).take 32) := by
  simp only [encapsulate, slice_hashG_first, slice_hashG_second]
  cases encrypt w pk m ((hashG (m ++ hashH pk)).drop 32) <;> rfl

end Sys2Proof.Machine
end

section
/-! PROOFS. Decrypt and Decaps (46_kem.md R297, R298, R303, R304): the message bits, and both branches (O60). -/

namespace Sys2Proof.Machine

variable {w : Nat} {sk ct ct' : List Byte} {rh : RejectHash}

/-- w = INTT(ŝ·NTT(u)) − v, of the u and v that the ciphertext holds (R297). -/
def noisyMsg (sk ct : List Byte) : List Nat :=
  polySub
    (intt (dotPoly (keyPoly sk)
      fun j => ntt ((byteDecode 10 (slice ct (320 * j) (320 * j + 320))).map (decompress 10))))
    ((byteDecode 4 (slice ct 960 1088)).map (decompress 4))

theorem decrypt_eq_decodeMsg (sk ct : List Byte) : decrypt sk ct = decodeMsg (noisyMsg sk ct) := by
  rw [noisyMsg, ← dot_eq_dotPoly (fun j _ => keyPoly_length sk j) fun j _ => ntt_length _ (by simp)]
  rfl

theorem noisyMsg_getD (sk ct : List Byte) {c : Nat} (hc : c < 256) :
    ((noisyMsg sk ct).getD c 0 : Int) =
      (((intt (dotPoly (keyPoly sk)
        fun j => ntt ((byteDecode 10 (slice ct (320 * j) (320 * j + 320))).map (decompress 10)))).getD c 0 : Int) -
      decompress 4 ((byteDecode 4 (slice ct 960 1088)).getD c 0)) % q := by
  rw [noisyMsg, polySub, getD_zipWith _ (by rwa [intt_dotPoly_length]) (by simpa using hc),
    getD_map_of_zero (f := decompress 4) rfl, subQ_cast]
  rfl

theorem streamBit_decodeMsg (F : List Nat) {c : Nat} (hc : c < 256) :
    streamBit (decodeMsg F) c = true ↔ 833 ≤ F.getD c 0 ∧ F.getD c 0 ≤ 2496 := by
  have hbit : streamBit (byteEncode 1 (F.map msgBit)) c = ((F.map msgBit).getD c 0).testBit 0 := by
    simpa using streamBit_byteEncode (d := 1) (r := 0) (F.map msgBit) hc (by decide)
  rw [decodeMsg, hbit, getD_map_of_zero (f := msgBit) rfl, ← msgBit_eq_one_iff]
  obtain hzero | hone := msgBit_eq_zero_or_one (F.getD c 0)
  · rw [hzero]
    decide
  · rw [hone]
    decide

theorem between_cast {y : Nat} {x : Int} (h : (y : Int) = x) : 833 ≤ y ∧ y ≤ 2496 ↔ 833 ≤ x ∧ x ≤ 2496 := by omega

theorem decryptEquations_decrypt (sk ct : List Byte) : DecryptEquations sk ct (decrypt sk ct) := by
  rw [decrypt_eq_decodeMsg]
  exact ⟨byteEncode_length 1 _, fun c hc => (streamBit_decodeMsg _ hc).trans (between_cast (noisyMsg_getD sk ct hc))⟩

/-- Decaps, once the re-encryption has a result: the first half of G where it is the ciphertext, else the rejection
hash (R298). -/
theorem decapsulate_of_encrypt
    (h : encrypt w (slice sk 1152 2336) (decrypt sk ct)
      (slice (hashG (decrypt sk ct ++ slice sk 2336 2368)) 32 64) = some ct') :
    decapsulate rh w sk ct = some
      (if ct' = ct then slice (hashG (decrypt sk ct ++ slice sk 2336 2368)) 0 32
       else rejectHash rh (slice sk 2368 2400 ++ ct)) := by
  simp only [decapsulate, h]

/-- Decaps gives the encapsulated secret where Decrypt gives the message (R303): the re-encryption is then the
encryption. -/
theorem decapsulate_of_decrypt {d z pk m K : List Byte} (hkeys : keyGen w d z = some (pk, sk))
    (hcaps : encapsulate w pk m = some (ct, K)) (hm : decrypt sk ct = m) : decapsulate rh w sk ct = some K := by
  obtain ⟨A, -, hpair⟩ := keyGen_eq_some_iff.mp hkeys
  cases hpair
  rw [encapsulate_eq_map_encrypt, Option.map_eq_some_iff] at hcaps
  obtain ⟨ct', henc, hres⟩ := hcaps
  cases hres
  rw [decapsulate_of_encrypt (ct' := ct), if_pos rfl, slice_secretKey_hash, hm, slice_hashG_first]
  rw [slice_secretKey_publicKey, slice_secretKey_hash, hm, slice_hashG_second, henc]

/-- Settles O60: the results of Encrypt and Decrypt by their equations, and Decaps by its re-encryption. -/
theorem decapsOfEncaps : Obligations.DecapsOfEncaps := by
  refine ⟨fun w pk m r => ⟨?_, fun ct hct => ?_⟩, encapsulate_eq_map_encrypt, decryptEquations_decrypt,
    fun rh w d z pk sk m ct K _ hkeys hcaps => ?_, fun rh w sk ct ct' henc => ?_⟩
  · rw [encrypt_isSome, genMatrix_isSome_iff]
  · obtain ⟨A, hA⟩ := genMatrix_isSome_iff.mp (by rw [← encrypt_isSome w pk m r, hct]; rfl)
    cases hct.symm.trans (encrypt_of_matrixOf hA)
    exact encryptEquations_of_matrixOf hA m r
  · exact or_iff_not_imp_right.mpr fun hm => decapsulate_of_decrypt hkeys hcaps (not_not.mp hm)
  · rw [decapsulate_of_encrypt henc]
    cases rh <;> rfl

end Sys2Proof.Machine
end

section
/-! PROOFS. NOP (47_system.md R330; O25). -/

namespace Sys2Proof.Machine

/-- Settles O25: NOP passes every check, and its effect is the state itself, so that completion is all it does. -/
theorem nopCompletes : Obligations.NopCompletes := fun s hr =>
  exec_completed (effect := some) (u := s) rfl trivial hr rfl

end Sys2Proof.Machine
end

section
/-! PROOFS. The argument check (60_exceptions.md R343, R345; O24). -/

namespace Sys2Proof.Machine

/-- No error has the code 0, so the code of a check is 0 only where it passes (60_exceptions.md R341). -/
theorem checkCode_eq_zero_iff (p : Params) (i : Instr) : checkCode p i = 0 ↔ check p i = none := by
  rw [checkCode]
  cases check p i with
  | none => simp
  | some e =>
    have hcode : e.code.toNat ≠ 0 := fun h => e.code_ne_zero (BitVec.eq_of_toNat_eq h)
    simpa using hcode

theorem expectedCode_eq_zero_iff (p : Params) (i : Instr) : expectedCode p i = 0 ↔ i.wellFormed p := by
  rw [← checkCode_eq_expectedCode, checkCode_eq_zero_iff, Laws.check_none_iff_wellFormed]

/-- Settles O24: an illegal word and a failed check both complete by `State.completeErr`, with their own code. -/
theorem failedChecksInOrder : Obligations.FailedChecksInOrder := by
  refine ⟨fun s c hr hf hw => ?_, fun s c i hr hf hd hcode => ?_, expectedCode_eq_zero_iff⟩
  · rw [engineStep_illegal hf (decodeCommand_of_no_row hw), s.failCommand_unraced .illegalCmd [] hr]
    rfl
  · obtain ⟨e, hc, he⟩ := check_of_expectedCode hcode
    rw [engineStep_command hf hd, exec_failed hc, s.failCommand_unraced e _ hr, ← he]
    rfl

end Sys2Proof.Machine
end

section
/-! PROOFS. Soft reset and power-on reset (70_reset_and_hazards.md R380, R382; O8, O10, O11). -/

namespace Sys2Proof.Machine

variable {s : State}

/-- Every register holds its reset value, and no command is pending (70_reset_and_hazards.md R380). -/
structure State.RegsAtReset (s : State) : Prop where
  ie : s.ie = false
  done : s.done = false
  err : s.err = false
  overrun : s.overrun = false
  errcode : s.errcode = 0
  args : s.args = Args.zero
  result : s.result = 0
  pending : s.pending = none

theorem State.regsAtReset_reset : State.reset.RegsAtReset := ⟨rfl, rfl, rfl, rfl, rfl, rfl, rfl, rfl⟩

theorem State.regsAtReset_powerOn (s : State) : s.powerOn.RegsAtReset := ⟨rfl, rfl, rfl, rfl, rfl, rfl, rfl, rfl⟩

theorem State.regsAtReset_softReset (s : State) : s.softReset.RegsAtReset := ⟨rfl, rfl, rfl, rfl, rfl, rfl, rfl, rfl⟩

/-! ### What the registers read after a reset -/

theorem State.RegsAtReset.ctrlWord (h : s.RegsAtReset) : s.ctrlWord = 0 := by
  rw [State.ctrlWord, h.ie]
  rfl

theorem State.RegsAtReset.statusWord (h : s.RegsAtReset) : s.statusWord = 0 := by
  rw [State.statusWord, State.busy, h.pending, h.done, h.err, h.overrun, h.errcode]
  rfl

theorem State.RegsAtReset.resultWord (h : s.RegsAtReset) : s.resultWord = 0 := by
  rw [State.resultWord, h.result]
  rfl

theorem State.RegsAtReset.irq (h : s.RegsAtReset) : s.irq = false := by
  rw [State.irq, h.ie, Bool.false_and]

/-! ### What soft reset does to the rest of the state -/

theorem State.readByte_softReset (s : State) {a : Nat} (ha : a < s.params.memSize) :
    s.softReset.readByte a = if s.inOutputs a then Config.freeByte s.draws a else s.readByte a :=
  (s.readByte_scramble a s.pendingRegions.2).trans
    (ite_congr (propext (and_iff_right ha)) (fun _ => rfl) fun _ => rfl)

theorem State.preg_softReset (s : State) (r : Nat) : s.softReset.preg r = freePoly s.draws r :=
  ((s.scramble s.pendingRegions.2).preg_forgetPregs r).trans (by rw [State.scramble_draws])

@[simp] theorem State.softReset_params (s : State) : s.softReset.params = s.params :=
  s.scramble_params s.pendingRegions.2

@[simp] theorem State.softReset_readData (s : State) : s.softReset.readData = s.readData :=
  s.scramble_readData s.pendingRegions.2

@[simp] theorem State.softReset_agenda (s : State) : s.softReset.agenda = s.agenda :=
  s.scramble_agenda s.pendingRegions.2

theorem step_soft_reset {v : Word} {rest : List Event}
    (hs : s.agenda = .host (.write s.params.base 4 v) :: rest) (hv : v.getLsbD 0 = true) :
    step s = .next { s with agenda := rest }.softReset := by
  rw [step_register_write (o := 0x000) hs (by decide) (by decide)]
  exact congrArg _ (State.writeCtrl_reset _ hv)

/-- Settles O11: the write is `State.softReset`, which scrambles the output regions of the pending command. -/
theorem softResetState : Obligations.SoftResetState := by
  intro s v rest hs hv
  have hregs := State.regsAtReset_softReset { s with agenda := rest }
  exact ⟨_, step_soft_reset hs hv, hregs.ctrlWord, hregs.statusWord, hregs.args, hregs.resultWord, hregs.pending,
    hregs.irq, fun _ ha => State.readByte_softReset { s with agenda := rest } ha, State.preg_softReset _,
    State.softReset_params _, State.softReset_readData _, State.softReset_agenda _⟩

/-! ### Power-on reset -/

theorem step_powerOn {rest : List Event} (hs : s.agenda = .powerOn :: rest) :
    step s = .next { s with agenda := rest }.powerOn := by
  rw [step_of_cons hs, runEvent]

/-- Settles O8: MEM and P are empty, no command is pending, and draw 0 is older than the next one. -/
theorem resetMeetsTheInvariant : Obligations.ResetMeetsTheInvariant where
  legal := by decide
  memWf := State.reset_mem_wf
  memInside _ hc := absurd hc List.not_mem_nil
  pregsWf := List.Pairwise.nil
  pregsInside _ hc := absurd hc List.not_mem_nil
  errcodeIffErr := iff_of_true rfl rfl
  errcodeKnown := Nat.zero_le 6
  busyQuiet _ := ⟨rfl, rfl⟩
  racesInside _ ha := absurd ha List.not_mem_nil
  drawsOld := by decide

/-- Settles O10: the step is `State.powerOn`; it and `State.reset` list no byte of MEM and no register of P, so every one
holds the draw made then. -/
theorem powerOnResetState : Obligations.PowerOnResetState := by
  refine ⟨fun s rest hs => ?_, ?_⟩
  · have hregs := State.regsAtReset_powerOn { s with agenda := rest }
    exact ⟨_, step_powerOn hs, hregs.ctrlWord, hregs.statusWord, hregs.args, hregs.resultWord, hregs.pending,
      hregs.irq, rfl, fun _ => rfl, fun _ => rfl⟩
  · have hregs := State.regsAtReset_reset
    exact ⟨hregs.ctrlWord, hregs.statusWord, hregs.args, hregs.resultWord, hregs.pending, hregs.irq,
      ⟨0, fun _ => rfl⟩, 0, fun _ => rfl⟩

end Sys2Proof.Machine
end
